-- ==== Sys2Proof/Word.lean ====
section
/-! DEFINITION. The widths of ULID-CORE: bytes, host words, 64-bit registers and 128-bit identifiers (00_scope R6, R7). -/

namespace Sys2Proof

/-- One byte of an identifier, of the string buffer or of an entropy answer. -/
abbrev Byte := BitVec 8

/-- One host access, `HOST_DATA_BITS` = 32 (R6), and one command word (R80). -/
abbrev Word := BitVec 32

/-- A 64-bit register: TS, CTX or RESULT (R24, R25, R26). -/
abbrev Dword := BitVec 64

/-- An identifier as one number, `ID_BITS` = 128 (R6, R8). -/
abbrev Ident := BitVec 128

/-- The name of an identifier slot, S0..S3: `N_SLOTS` = 4 (R6, R21). -/
abbrev SlotId := Fin 4

end Sys2Proof
end

