-- ==== Sys2Proof/Config.lean ====
section
/-! DEFINITION. What the spec leaves to the integration, and the free values: constants with no body, so that no proof
can rest on a value of theirs. -/

namespace Sys2Proof

/-- The `n`-th free value of width `w`. It stands for every value the spec calls unspecified: the value an unwritten
datum holds after reset (R38, R220, U6) and what a read of a slot, RESULT or STR word gives while BUSY = 1 (R60, U5). -/
opaque Config.unspecified (w : Nat) (n : Nat) : BitVec w

/-- The tie-off `ENT_PRESENT`: whether the entropy byte port is connected. OPEN in the spec (R6, R174, D21, U12). -/
opaque Config.entPresent : Bool

/-- The tie-off `BULK_PRESENT`: whether the bulk entropy port is connected. OPEN in the spec (R6, R174, D21, U12). -/
opaque Config.bulkPresent : Bool

end Sys2Proof
end

