-- ==== Sys2Proof/Syntax.lean ====
section
/-! DEFINITION. The nine commands (30_encoding R82) and the fields of a command word (R80). -/

namespace Sys2Proof

/-- A command of ULID-CORE, one constructor for each row of the opcode table. Operands are slot numbers and one byte
(R81); the timestamp and the context are not operands, they come from the registers TS and CTX. -/
inductive Instr where
  /-- `ENC.PORT sA`: encode TS with ten bytes of the entropy byte port (R103). -/
  | encPort (dst : SlotId)
  /-- `ENC.CONST sA, #v`: encode TS with a constant entropy byte (R106). -/
  | encConst (dst : SlotId) (imm : Byte)
  /-- `ENC.SKIP sA`: encode TS, leave the entropy field (R107). -/
  | encSkip (dst : SlotId)
  /-- `ENC.BULK sA`: encode TS with the bulk port, or its fallback (R108). -/
  | encBulk (dst : SlotId)
  /-- `RENDER sA`: the canonical string of a slot into STR (R134). -/
  | render (src : SlotId)
  /-- `EXTRACT sA`: the timestamp of a slot into RESULT (R139). -/
  | extract (src : SlotId)
  /-- `CMP sA, sB`: the order of two slots into RESULT (R150). -/
  | cmp (a b : SlotId)
  /-- `EQ sA, sB`: the equality of two slots into RESULT (R151). -/
  | eq (a b : SlotId)
  /-- `COPY sA, sB`: slot A into slot B (R152). -/
  | copy (src dst : SlotId)
  deriving DecidableEq, Repr

/-- The five fields of a 32-bit command word (R80). -/
structure RawCommand where
  op  : BitVec 4
  sa  : BitVec 2
  sb  : BitVec 2
  imm : Byte
  res : BitVec 16
  deriving DecidableEq, Repr

/-- Why a word is no command. The block records all four as ILLEGAL_CMD (R83, R84, R191). -/
inductive DecodeError where
  /-- A bit of RES (bits 31:16) is set (R83). -/
  | reservedBits
  /-- OP is 0x0 or 0xA..0xF (R84). -/
  | reservedOpcode
  /-- SB is not zero in a command that has no slot B (R83). -/
  | slotBNotZero
  /-- IMM8 is not zero in a command that has no immediate (R83). -/
  | immNotZero
  deriving DecidableEq, Repr

end Sys2Proof
end

