-- ==== Sys2Proof/WellFormed.lean ====
section
/-! DEFINITION. When the fields of a command word are a command: the must-be-zero checks of 30_encoding R82, R83, R84.
An `Instr` is well formed by its types; the checks stand on the fields, where a word can break them. -/

namespace Sys2Proof

/-- OP names one of the nine commands (R82, R84). -/
def RawCommand.opLegal (r : RawCommand) : Bool := decide (1 ≤ r.op.toNat ∧ r.op.toNat ≤ 9)

/-- The commands with a slot B: CMP, EQ and COPY (R82). -/
def RawCommand.usesSlotB (r : RawCommand) : Bool := decide (7 ≤ r.op.toNat ∧ r.op.toNat ≤ 9)

/-- The command with an immediate: ENC.CONST (R82). -/
def RawCommand.usesImm (r : RawCommand) : Bool := decide (r.op.toNat = 2)

/-- SB is zero where it is no operand (R83). -/
def RawCommand.slotBOk (r : RawCommand) : Bool := r.usesSlotB || decide (r.sb = 0)

/-- IMM8 is zero where it is no operand (R83). -/
def RawCommand.immOk (r : RawCommand) : Bool := r.usesImm || decide (r.imm = 0)

/-- RES is zero (R83). -/
def RawCommand.resOk (r : RawCommand) : Bool := decide (r.res = 0)

/-- The fields are those of a legal command word (R82, R83). -/
def RawCommand.wellFormed (r : RawCommand) : Bool := r.opLegal && r.slotBOk && r.immOk && r.resOk

end Sys2Proof
end

