-- ==== Sys2Proof/Decode.lean ====
section
/-! DEFINITION. The decoder (30_encoding R80, R81, R87), total on 32-bit words and rejecting by name, and after it the
encoder (R82, R88) and the assembler text of a command (R88). -/

namespace Sys2Proof

/-- The fields of a word: OP = w[3:0], SA = w[5:4], SB = w[7:6], IMM8 = w[15:8], RES = w[31:16] (R80). -/
def RawCommand.ofWord (w : Word) : RawCommand :=
  { op := w.extractLsb' 0 4, sa := w.extractLsb' 4 2, sb := w.extractLsb' 6 2,
    imm := w.extractLsb' 8 8, res := w.extractLsb' 16 16 }

/-- The word of five fields, most significant first (R80). -/
def RawCommand.word (r : RawCommand) : Word := r.res ++ r.imm ++ r.sb ++ r.sa ++ r.op

/-- A command with slot A as its only operand: SB and IMM8 must be zero (R82, R83). -/
def oneSlot (sb : BitVec 2) (imm : Byte) (i : Instr) : Except DecodeError Instr :=
  if sb = 0 then (if imm = 0 then .ok i else .error .immNotZero) else .error .slotBNotZero

/-- A command with slot A and an immediate: SB must be zero (R82, R83). -/
def slotAndImm (sb : BitVec 2) (i : Instr) : Except DecodeError Instr :=
  if sb = 0 then .ok i else .error .slotBNotZero

/-- A command with two slots: IMM8 must be zero (R82, R83). -/
def twoSlots (imm : Byte) (i : Instr) : Except DecodeError Instr :=
  if imm = 0 then .ok i else .error .immNotZero

/-- The `case op of` of R87, on the four fields below RES. -/
def decodeFields (op : BitVec 4) (sa sb : BitVec 2) (imm : Byte) : Except DecodeError Instr :=
  match op.toNat with
  | 0x1 => oneSlot sb imm (.encPort sa.toFin)
  | 0x2 => slotAndImm sb (.encConst sa.toFin imm)
  | 0x3 => oneSlot sb imm (.encSkip sa.toFin)
  | 0x4 => oneSlot sb imm (.encBulk sa.toFin)
  | 0x5 => oneSlot sb imm (.render sa.toFin)
  | 0x6 => oneSlot sb imm (.extract sa.toFin)
  | 0x7 => twoSlots imm (.cmp sa.toFin sb.toFin)
  | 0x8 => twoSlots imm (.eq sa.toFin sb.toFin)
  | 0x9 => twoSlots imm (.copy sa.toFin sb.toFin)
  | _ => .error .reservedOpcode

/-- `Decode` of R87: a total function of 32-bit words. -/
def decodeWord (w : Word) : Except DecodeError Instr :=
  if w.extractLsb' 16 16 = 0 then
    decodeFields (w.extractLsb' 0 4) (w.extractLsb' 4 2) (w.extractLsb' 6 2) (w.extractLsb' 8 8)
  else .error .reservedBits

/-- The decoder on a word of the opcode table: its low `nbits` bits are `w`, the bits above them zero. A command is
exactly one 32-bit word (R86), so nothing longer is one. -/
def decodeTableWord (nbits w : Nat) : Option Instr :=
  if nbits ≤ 32 then
    match decodeWord (BitVec.ofNat 32 (w % 2 ^ nbits)) with
    | .ok i => some i
    | .error _ => none
  else none

/-- A slot number as the two bits of SA or SB (R81). -/
def slotBits (d : SlotId) : BitVec 2 := .ofFin d

/-- The fields of a command (R80, R82): every field that is no operand is zero. -/
def Instr.fields : Instr → RawCommand
  | .encPort d    => { op := 0x1, sa := slotBits d, sb := 0, imm := 0, res := 0 }
  | .encConst d v => { op := 0x2, sa := slotBits d, sb := 0, imm := v, res := 0 }
  | .encSkip d    => { op := 0x3, sa := slotBits d, sb := 0, imm := 0, res := 0 }
  | .encBulk d    => { op := 0x4, sa := slotBits d, sb := 0, imm := 0, res := 0 }
  | .render d     => { op := 0x5, sa := slotBits d, sb := 0, imm := 0, res := 0 }
  | .extract d    => { op := 0x6, sa := slotBits d, sb := 0, imm := 0, res := 0 }
  | .cmp a b      => { op := 0x7, sa := slotBits a, sb := slotBits b, imm := 0, res := 0 }
  | .eq a b       => { op := 0x8, sa := slotBits a, sb := slotBits b, imm := 0, res := 0 }
  | .copy a b     => { op := 0x9, sa := slotBits a, sb := slotBits b, imm := 0, res := 0 }

/-- The word of a command (R88). -/
def encode (i : Instr) : Word := i.fields.word

/-- The column "match" of R82 for the row of a command. -/
def Instr.tableMatch : Instr → Word
  | .encPort _ => 0x0000_0001
  | .encConst _ _ => 0x0000_0002
  | .encSkip _ => 0x0000_0003
  | .encBulk _ => 0x0000_0004
  | .render _ => 0x0000_0005
  | .extract _ => 0x0000_0006
  | .cmp _ _ => 0x0000_0007
  | .eq _ _ => 0x0000_0008
  | .copy _ _ => 0x0000_0009

/-- The column "mask" of R82 for the row of a command. -/
def Instr.tableMask : Instr → Word
  | .encPort _ => 0xFFFF_FFCF
  | .encConst _ _ => 0xFFFF_00CF
  | .encSkip _ => 0xFFFF_FFCF
  | .encBulk _ => 0xFFFF_FFCF
  | .render _ => 0xFFFF_FFCF
  | .extract _ => 0xFFFF_FFCF
  | .cmp _ _ => 0xFFFF_FF0F
  | .eq _ _ => 0xFFFF_FF0F
  | .copy _ _ => 0xFFFF_FF0F

/-- A command is well formed when its fields are (R82, R83). -/
def Instr.wellFormed (i : Instr) : Bool := i.fields.wellFormed

/-- The assembler name of a slot, `s0`..`s3` (R88). -/
def slotText (d : SlotId) : String := "s" ++ toString d.val

/-- The assembler text of a command (R88). -/
def Instr.text : Instr → String
  | .encPort d    => "ENC.PORT " ++ slotText d
  | .encConst d v => "ENC.CONST " ++ slotText d ++ ", #" ++ toString v.toNat
  | .encSkip d    => "ENC.SKIP " ++ slotText d
  | .encBulk d    => "ENC.BULK " ++ slotText d
  | .render d     => "RENDER " ++ slotText d
  | .extract d    => "EXTRACT " ++ slotText d
  | .cmp a b      => "CMP " ++ slotText a ++ ", " ++ slotText b
  | .eq a b       => "EQ " ++ slotText a ++ ", " ++ slotText b
  | .copy a b     => "COPY " ++ slotText a ++ ", " ++ slotText b

end Sys2Proof
end

