-- ==== Sys2Proof/Machine/State.lean ====
section
/-! DEFINITION. The state of ULID-CORE as plain data: everything 10_state R20 and R37 name, the written status of every
data byte (R38), what the two ports hold, and the model's own fields (inputs, last response, free-value counter, resets). -/

namespace Sys2Proof.Machine

/-- One datum of `w` bits of a data register, with its written status (R38). -/
inductive Data (w : Nat) where
  /-- Written: it holds this value. -/
  | written (v : BitVec w)
  /-- Unwritten since the reset that gave it the tag `n`: its value is the free value of that tag (`Data.val`). -/
  | unwritten (n : Nat)
  deriving DecidableEq, Repr

/-- An identifier slot: 16 bytes, byte 0 the most significant (R8, R21). -/
abbrev Slot := Vector (Data 8) 16

/-- The string buffer STR: 26 characters and a terminator (R27). -/
abbrev Str := Vector (Data 8) 27

/-- A 64-bit register as the two words the window shows (R55). The host writes TS and CTX one half at a time and the
commands write RESULT whole, so the bytes of one half are always written or unwritten together (R38). -/
structure Reg64 where
  lo : Data 32
  hi : Data 32
  deriving DecidableEq, Repr

/-- The codes of STATUS.ERR; code 3 is never produced (R29, R31). -/
inductive ErrCode where
  | ok
  | illegalCmd
  | invalidArg
  deriving DecidableEq, Repr

/-- The fields of STATUS (R29). The reserved bits have no storage: `Status.word` reads them as 0. -/
structure Status where
  busy     : Bool
  err      : ErrCode
  degraded : Bool
  fallback : Bool
  ovr      : Bool
  deriving DecidableEq, Repr

/-- The fields of CFG: the two tie-offs (R35, R174). -/
structure Cfg where
  entPresent  : Bool
  bulkPresent : Bool
  deriving DecidableEq, Repr

/-- The phases of the sequencer (R37). -/
inductive Phase where
  /-- No command runs. -/
  | idle
  /-- A command that completes in one CORE step. -/
  | exec
  /-- Before the first entropy request. -/
  | tsWrite
  /-- Waiting for an entropy byte. -/
  | entWait
  /-- Waiting for the bulk port. -/
  | bulkWait
  deriving DecidableEq, Repr

/-- The hidden state of the CORE sequencer, field by field as R37 lists it. -/
structure Sequencer where
  phase : Phase
  op    : BitVec 4
  sa    : BitVec 2
  sb    : BitVec 2
  imm   : Byte
  ts    : Dword
  ctx   : Dword
  k     : Fin 16
  fb    : Bool
  deriving DecidableEq, Repr

/-- One answer of the entropy byte port (R165). -/
inductive EntAnswer where
  | byte (b : Byte)
  | fail
  deriving DecidableEq, Repr

/-- One answer of the bulk port (R171): `fail`, or `got n b`, which delivers the bytes `b[0]`..`b[n-1]`. The entries of
`b` from `n` on are no part of the answer, and nothing reads them. -/
inductive BulkAnswer where
  | fail
  | got (n : Fin 11) (b : Vector Byte 10)
  deriving DecidableEq, Repr

/-- The names of the register window (R52). -/
inductive Reg where
  | cmd
  | status
  | cfg
  | tsLo
  | tsHi
  | ctxLo
  | ctxHi
  | resultLo
  | resultHi
  | slotWord (s : SlotId) (j : Fin 4)
  | strWord (j : Fin 7)
  deriving DecidableEq, Repr

/-- One host access: its byte offset in the window, its width in bytes, and the value a write carries. Only the width
4 is admitted (R57); the value of a write of another width is not looked at. -/
inductive Access where
  | read (off : BitVec 8) (bytes : Nat)
  | write (off : BitVec 8) (bytes : Nat) (v : Word)
  deriving DecidableEq, Repr

/-- What happens next: an access of HOST, a turn of CORE, an answer of ENT or of BULK, or the reset input (R10, R61,
R220). An answer names the request it answers by `epoch`, the number of resets before that request was made: within one
epoch requests come one at a time and each gets one answer (R165, R166, R171), and a request of an earlier epoch is one a
reset abandoned (R221). The name is the model's own (DESIGN CHOICE, notes/assumptions/21). -/
inductive Input where
  | host (a : Access)
  | core
  | ent (epoch : Nat) (a : EntAnswer)
  | bulk (epoch : Nat) (a : BulkAnswer)
  | reset
  deriving DecidableEq, Repr

/-- What the last host access was answered with. -/
inductive Response where
  /-- No access since reset. -/
  | none
  /-- A write was taken, refused or ignored: no bus error. -/
  | written
  /-- A read of register `r` returned `v`. -/
  | data (r : Reg) (v : Word)
  /-- The access was not admitted (R195). -/
  | busError
  deriving DecidableEq, Repr

/-- The whole machine. CMD holds no value (R28), so it has no field. -/
structure State where
  /-- S0..S3 (R21). -/
  slots : Vector Slot 4
  /-- TS (R24). -/
  ts : Reg64
  /-- CTX (R25). -/
  ctx : Reg64
  /-- RESULT (R26). -/
  result : Reg64
  /-- STR (R27). -/
  str : Str
  /-- STATUS (R29). -/
  status : Status
  /-- CFG (R35). -/
  cfg : Cfg
  /-- The sequencer (R37). -/
  seq : Sequencer
  /-- ENT's answer to the outstanding request, until CORE takes it (R103). -/
  entAnswer : Option EntAnswer
  /-- BULK's answer to the outstanding request, until CORE takes it (R108). -/
  bulkAnswer : Option BulkAnswer
  /-- The model's own: the answer to the last host access. -/
  response : Response
  /-- The model's own: what happens next, in order. -/
  inputs : List Input
  /-- The model's own: the number of free values used so far. -/
  draws : Nat
  /-- The model's own: the number of resets so far, which tells the requests a reset abandoned from later ones (R221). -/
  resets : Nat
  deriving DecidableEq, Repr

/-- Why the machine stops. The spec gives the block no stop of its own (R190): both reasons stand for states that R37
rules out and no run reaches. -/
inductive Fault where
  /-- Raised by `State.coreTurn` when BUSY = 1 and the latched fields are no command. SAFE: R37 latches only decoded
  commands, and the spec says nothing of such a state. -/
  | noSuchCommand
  /-- Raised by the meaning of a command that runs (BUSY = 1) in a phase in which it has no CORE step. SAFE: R90, R103
  and R108 set only the command's own phases, and the spec says nothing of such a state. -/
  | noSuchStep
  deriving DecidableEq, Repr

/-- Why the model gives no meaning. -/
inductive Refusal where
  /-- Raised by `exec` for a command with no meaning yet; every command has one, so nothing raises it. SAFE. -/
  | notModelled (mnemonic : String)
  deriving DecidableEq, Repr

/-- The number of data the registers hold: 4 x 16 slot bytes, three registers of two halves, 27 string bytes. -/
def dataCount : Nat := 97

/-- The state a reset leaves: STATUS = 0, phase IDLE, every datum unwritten, the ports' requests abandoned (R20, R220,
R221). The data take the tags from `base` on, and `resets` resets have come so far. The spec gives op, sa, sb, imm, ts, ctx,
k and fb no value; the model names 0 (DESIGN CHOICE, notes/assumptions/3). -/
def State.afterReset (cfg : Cfg) (base resets : Nat) (inputs : List Input) : State :=
  { slots := Vector.ofFn fun s => Vector.ofFn fun k => .unwritten (base + 16 * s.val + k.val),
    ts := { lo := .unwritten (base + 64), hi := .unwritten (base + 65) },
    ctx := { lo := .unwritten (base + 66), hi := .unwritten (base + 67) },
    result := { lo := .unwritten (base + 68), hi := .unwritten (base + 69) },
    str := Vector.ofFn fun i => .unwritten (base + 70 + i.val),
    status := { busy := false, err := .ok, degraded := false, fallback := false, ovr := false },
    cfg := cfg,
    seq := { phase := .idle, op := 0, sa := 0, sb := 0, imm := 0, ts := 0, ctx := 0, k := 0, fb := false },
    entAnswer := none,
    bulkAnswer := none,
    response := .none,
    inputs := inputs,
    draws := base + dataCount,
    resets := resets }

/-- The machine right after reset (R220): CFG holds the tie-offs, and nothing has been asked of the block yet. -/
def State.reset : State :=
  State.afterReset { entPresent := Config.entPresent, bulkPresent := Config.bulkPresent } 0 0 []

end Sys2Proof.Machine
end

