-- ==== Sys2Proof/Machine/Flags.lean ====
section
/-! DEFINITION. The bits of STATUS and CFG as words, and every way a STATUS field changes (10_state R29 to R35,
60_exceptions R192, R194, R196, R199). -/

namespace Sys2Proof.Machine

/-- The code of STATUS.ERR (R29). -/
def ErrCode.code : ErrCode → BitVec 2
  | .ok => 0
  | .illegalCmd => 1
  | .invalidArg => 2

/-- STATUS as the host reads it: BUSY bit 0, ERR bits 2:1, DEGRADED 3, FALLBACK 4, OVR 5, bits 31:6 zero (R29). -/
def Status.word (t : Status) : Word :=
  0#26 ++ BitVec.ofBool t.ovr ++ BitVec.ofBool t.fallback ++ BitVec.ofBool t.degraded ++ t.err.code ++ BitVec.ofBool t.busy

/-- CFG as the host reads it: ENT_PRESENT bit 0, BULK_PRESENT bit 1, bits 31:2 zero (R35). -/
def Cfg.word (c : Cfg) : Word := 0#30 ++ BitVec.ofBool c.bulkPresent ++ BitVec.ofBool c.entPresent

/-- A command is accepted: BUSY 1, ERR 0, DEGRADED and FALLBACK cleared, OVR kept (R30 to R34, R90). -/
def Status.accepted (t : Status) : Status :=
  { busy := true, err := .ok, degraded := false, fallback := false, ovr := t.ovr }

/-- A command ends in an error: ERR its code, DEGRADED and FALLBACK cleared, BUSY and OVR kept (R31 to R33, R192). -/
def Status.failed (e : ErrCode) (t : Status) : Status :=
  { busy := t.busy, err := e, degraded := false, fallback := false, ovr := t.ovr }

/-- A command completes: BUSY 0, nothing else (R30). -/
def Status.completed (t : Status) : Status := { t with busy := false }

/-- A byte was stored for a failed entropy read (R32, R105). -/
def Status.degrade (t : Status) : Status := { t with degraded := true }

/-- An ENC.BULK takes its fallback (R33, R109). -/
def Status.fallBack (t : Status) : Status := { t with fallback := true }

/-- A host write was refused because BUSY = 1 (R34, R194). -/
def Status.overrun (t : Status) : Status := { t with ovr := true }

/-- A host write of `v` to STATUS: bit 5 set clears OVR, and nothing else changes (R29). -/
def Status.hostWrite (v : Word) (t : Status) : Status :=
  if v.getLsbD 5 then { t with ovr := false } else t

end Sys2Proof.Machine
end

