-- ==== Sys2Proof/Machine/Operands.lean ====
section
/-! DEFINITION. The operand forms: the value of a datum, a 64-bit register and a slot (00_scope R8; 10_state R22, R38;
20_memory R55), and what a store makes of them (40_encoder R100). -/

namespace Sys2Proof.Machine

/-- The value of a datum. An unwritten datum has an unspecified value, which stays the same until it is written (R38;
R58: reads are idempotent): the free value of its tag. -/
def Data.val {w : Nat} : Data w → BitVec w
  | .written v => v
  | .unwritten n => Config.unspecified w n

/-- Whether a datum has been written since reset (R38). -/
def Data.isWritten {w : Nat} : Data w → Bool
  | .written _ => true
  | .unwritten _ => false

/-- The 64-bit value of a register: R_HI ++ R_LO (R55). -/
def Reg64.val (r : Reg64) : Dword := r.hi.val ++ r.lo.val

/-- A 64-bit register a command has written whole. -/
def Reg64.ofVal (v : Dword) : Reg64 :=
  { lo := .written (v.extractLsb' 0 32), hi := .written (v.extractLsb' 32 32) }

/-- Whether both halves of a register have been written (R38, R223). -/
def Reg64.isWritten (r : Reg64) : Bool := r.lo.isWritten && r.hi.isWritten

/-- The 16 byte values of a slot. -/
def Slot.bytes (b : Slot) : Vector Byte 16 := Vector.ofFn fun k => b[k].val

/-- Whether all 16 bytes of a slot have been written (R38). -/
def Slot.isWritten (b : Slot) : Bool := b.toList.all Data.isWritten

/-- The timestamp field, bytes 0..5, as a 48-bit value (R22). -/
def ts48 (b : Vector Byte 16) : BitVec 48 := b[0] ++ b[1] ++ b[2] ++ b[3] ++ b[4] ++ b[5]

/-- The entropy field, bytes 6..15, as an 80-bit value (R22). -/
def ent80 (b : Vector Byte 16) : BitVec 80 :=
  b[6] ++ b[7] ++ b[8] ++ b[9] ++ b[10] ++ b[11] ++ b[12] ++ b[13] ++ b[14] ++ b[15]

/-- The identifier as one 128-bit number, byte 0 most significant (R8, R22). -/
def val128 (b : Vector Byte 16) : Ident := ts48 b ++ ent80 b

/-- Byte `i` (0..5) of `TsBytes(t)`: `t[47:40]`, `t[39:32]`, .., `t[7:0]`; the bits 63:48 are in none (R100). -/
def tsByte (t : Dword) (i : Nat) : Byte := t.extractLsb' (40 - 8 * i) 8

/-- Bytes 0..5 take `TsBytes(t)`; bytes 6..15 keep their value and their written status (R100, R107). -/
def Slot.withTs (t : Dword) (b : Slot) : Slot :=
  Vector.ofFn fun k => if k.val < 6 then .written (tsByte t k.val) else b[k]

/-- All 16 bytes: `TsBytes(t)`, then the ten entropy bytes `e` in bytes 6..15 (R106, R108). -/
def Slot.ofParts (t : Dword) (e : Vector Byte 10) : Slot :=
  Vector.ofFn fun k => if h : k.val < 6 then .written (tsByte t k.val) else .written (e[k.val - 6]'(by omega))

end Sys2Proof.Machine
end

