-- ==== Sys2Proof/Machine/Ops.lean ====
section
/-! DEFINITION. The named operations on the state: slots and results, issuing a command and its errors (30_encoding R90,
60_exceptions R192), completing one, host refusals (R194, R195), the ports' requests (43 R165, R166, R171), reset (70 R220).
The block has no trap entry and no return from one (R190, R197, R199): `State.cmdError` is its one shared error action. -/

namespace Sys2Proof.Machine

/-- The slot named `d`. -/
def State.slot (s : State) (d : SlotId) : Slot := s.slots[d]

/-- The byte values of the slot named `d`. -/
def State.slotBytes (s : State) (d : SlotId) : Vector Byte 16 := (s.slot d).bytes

/-- Slot `d` becomes `b`; no other slot changes. -/
def State.setSlot (d : SlotId) (b : Slot) (s : State) : State := { s with slots := s.slots.set d b }

/-- Byte `k` of slot `d` takes the value `v` and is written; no other byte changes. -/
def State.setSlotByte (d : SlotId) (k : Fin 16) (v : Byte) (s : State) : State :=
  s.setSlot d ((s.slot d).set k (.written v))

/-- RESULT takes the value `v`, whole (R26). -/
def State.setResult (v : Dword) (s : State) : State := { s with result := .ofVal v }

/-- STR takes 27 new bytes (R27). -/
def State.setStr (b : Str) (s : State) : State := { s with str := b }

/-- The sequencer as a command leaves it at acceptance: its fields, TS and CTX latched, `fb` 0 (R37, R90). -/
def Sequencer.latch (i : Instr) (phase : Phase) (ts ctx : Dword) (q : Sequencer) : Sequencer :=
  { phase := phase, op := i.fields.op, sa := i.fields.sa, sb := i.fields.sb, imm := i.fields.imm,
    ts := ts, ctx := ctx, k := q.k, fb := false }

/-- The block accepts the command `i`, which starts in `phase` (R30, R90). -/
def State.accept (i : Instr) (phase : Phase) (s : State) : State :=
  { s with status := s.status.accepted, seq := s.seq.latch i phase s.ts.val s.ctx.val }

/-- `raise CmdError(e)` at a CMD write: only STATUS changes (R192). -/
def State.cmdError (e : ErrCode) (s : State) : State := { s with status := s.status.failed e }

/-- A command that needs the entropy byte port (R191): refused with INVALID_ARG when the port is absent. -/
def State.acceptIfEnt (accepted : State → State) (s : State) : State :=
  if s.cfg.entPresent then accepted s else s.cmdError .invalidArg

/-- The fallback of ENC.BULK begins: FALLBACK and `fb` set, phase TSWRITE (R108, R109). -/
def State.fallBack (s : State) : State :=
  { s with status := s.status.fallBack, seq := { s.seq with phase := .tsWrite, fb := true } }

/-- The running command completes: phase IDLE, BUSY 0 (R30). -/
def State.complete (s : State) : State :=
  { s with status := s.status.completed, seq := { s.seq with phase := .idle } }

/-- The last host access was answered with `r`. -/
def State.respond (r : Response) (s : State) : State := { s with response := r }

/-- A host write that BUSY = 1 refuses: OVR, and nothing else of the block (R194). -/
def State.overrun (s : State) : State := { s with status := s.status.overrun, response := .written }

/-- A host access the window does not admit: an error response, and nothing of the block changes (R195). -/
def State.busError (s : State) : State := s.respond .busError

/-- The request outstanding on the entropy byte port: the context it carries (R166, R170). -/
def State.entRequest (s : State) : Option Dword :=
  if s.seq.phase = .entWait ∧ s.entAnswer = none then some s.seq.ctx else none

/-- The request outstanding on the bulk port: the number of bytes asked for (R171). -/
def State.bulkRequest (s : State) : Option Nat :=
  if s.seq.phase = .bulkWait ∧ s.bulkAnswer = none then some 10 else none

/-- ENT answers a request of the epoch `epoch`: the answer is held for CORE if that is the present epoch and a request is
outstanding (R165). It is ignored when none is (R166), and when its request is one a reset abandoned, also while a new
request is outstanding (R221, notes/assumptions/21). -/
def State.entAnswers (epoch : Nat) (a : EntAnswer) (s : State) : State :=
  if epoch = s.resets ∧ s.entRequest.isSome then { s with entAnswer := some a } else s

/-- BULK answers a request of the epoch `epoch`: held for CORE, or ignored, as for `State.entAnswers` (R171, R221,
notes/assumptions/21). -/
def State.bulkAnswers (epoch : Nat) (a : BulkAnswer) (s : State) : State :=
  if epoch = s.resets ∧ s.bulkRequest.isSome then { s with bulkAnswer := some a } else s

/-- The reset input: everything of the block takes its reset value, the running command and its port request are
abandoned, the tie-offs stay; the data are unwritten under new tags (R220, R221). A new epoch begins, so that a late
answer to the abandoned request answers nothing (R221). What the outside does next stays. -/
def State.assertReset (s : State) : State := State.afterReset s.cfg s.draws (s.resets + 1) s.inputs

end Sys2Proof.Machine
end

