-- ==== Sys2Proof/Machine/Encoder.lean ====
section
/-! DEFINITION. The encode commands: ENC.PORT, ENC.CONST, ENC.SKIP, ENC.BULK (40_encoder.md). A meaning is what the
command does next: with BUSY = 0 its issue (30_encoding R90), with BUSY = 1 its CORE step in the phase it is in. -/

namespace Sys2Proof.Machine

/-- A command without an argument check that completes in one CORE step (R90): issued into phase EXEC, and there
`effect` and completion. -/
def State.runSingle (i : Instr) (effect : State → State) (s : State) : Host.Outcome State Fault Refusal :=
  if s.status.busy then
    match s.seq.phase with
    | .exec => .next (effect s).complete
    | .idle => .fault .noSuchStep
    | .tsWrite => .fault .noSuchStep
    | .entWait => .fault .noSuchStep
    | .bulkWait => .fault .noSuchStep
  else .next (s.accept i .exec)

/-- The TSWRITE step: bytes 0..5 of the destination, then the request for byte 6 (R103). -/
def State.tsWriteStep (d : SlotId) (s : State) : State :=
  { s.setSlot d ((s.slot d).withTs s.seq.ts) with seq := { s.seq with k := 6, phase := .entWait } }

/-- The byte an answer stores: the byte delivered, or 0x00 for `Fail` (R105, R110). -/
def EntAnswer.stored : EntAnswer → Byte
  | .byte b => b
  | .fail => 0x00

/-- DEGRADED after an answer: set by `Fail`, otherwise kept (R105). -/
def EntAnswer.mark (a : EntAnswer) (t : Status) : Status :=
  match a with
  | .byte _ => t
  | .fail => t.degrade

/-- The ENTWAIT step with the answer `a` to request `k`: byte `k` is stored; 15 completes, else the request for byte
`k + 1` (R103, R104, R105). -/
def State.entStep (d : SlotId) (a : EntAnswer) (s : State) : State :=
  let t := { s.setSlotByte d s.seq.k a.stored with entAnswer := none, status := a.mark s.status }
  if s.seq.k = 15 then t.complete else { t with seq := { s.seq with k := s.seq.k + 1 } }

/-- The CORE steps of ENC.PORT, which the fallback of ENC.BULK shares (R103, R109). In ENTWAIT with no answer CORE
waits (R169). -/
def State.portStep (d : SlotId) (s : State) : Host.Outcome State Fault Refusal :=
  match s.seq.phase with
  | .tsWrite => .next (s.tsWriteStep d)
  | .entWait =>
    match s.entAnswer with
    | some a => .next (s.entStep d a)
    | none => .next s
  | .idle => .fault .noSuchStep
  | .exec => .fault .noSuchStep
  | .bulkWait => .fault .noSuchStep

/-- The BULKWAIT step with the answer `a`: only ten bytes succeed; every other answer is the fallback, and its bytes
are discarded (R108, R172). -/
def State.bulkStep (d : SlotId) (a : BulkAnswer) (s : State) : State :=
  let t := { s with bulkAnswer := none }
  match a with
  | .fail => t.fallBack
  | .got n b => if n = 10 then (t.setSlot d (Slot.ofParts s.seq.ts b)).complete else t.fallBack

/-- ENC.PORT (R103). -/
def execEncPort (dst : SlotId) (s : State) : Host.Outcome State Fault Refusal :=
  if s.status.busy then s.portStep dst
  else .next (s.acceptIfEnt (State.accept (.encPort dst) .tsWrite))

/-- ENC.CONST (R106). -/
def execEncConst (dst : SlotId) (imm : Byte) (s : State) : Host.Outcome State Fault Refusal :=
  s.runSingle (.encConst dst imm) fun t => t.setSlot dst (Slot.ofParts t.seq.ts (Vector.replicate 10 imm))

/-- ENC.SKIP (R107). -/
def execEncSkip (dst : SlotId) (s : State) : Host.Outcome State Fault Refusal :=
  s.runSingle (.encSkip dst) fun t => t.setSlot dst ((t.slot dst).withTs t.seq.ts)

/-- How ENC.BULK starts: BULKWAIT when the bulk port is present, the fallback at once when it is not (R90, R108). -/
def State.acceptBulk (dst : SlotId) (s : State) : State :=
  if s.cfg.bulkPresent then s.accept (.encBulk dst) .bulkWait
  else (s.accept (.encBulk dst) .tsWrite).fallBack

/-- ENC.BULK (R108, R109). In BULKWAIT with no answer CORE waits (R171). -/
def execEncBulk (dst : SlotId) (s : State) : Host.Outcome State Fault Refusal :=
  if s.status.busy then
    match s.seq.phase with
    | .bulkWait =>
      match s.bulkAnswer with
      | some a => .next (s.bulkStep dst a)
      | none => .next s
    | .tsWrite => s.portStep dst
    | .entWait => s.portStep dst
    | .idle => .fault .noSuchStep
    | .exec => .fault .noSuchStep
  else .next (s.acceptIfEnt (State.acceptBulk dst))

end Sys2Proof.Machine
end

