-- ==== Sys2Proof/Machine/Codec.lean ====
section
/-! DEFINITION. The base32 codec and its commands RENDER and EXTRACT (41_codec.md). -/

namespace Sys2Proof.Machine

/-- The codes of the 32 symbols, in the order of R130: `0`..`9`, `A`..`H`, `J`, `K`, `M`, `N`, `P`..`T`, `V`..`Z`. -/
def alphabet : Vector Byte 32 :=
  #v[0x30, 0x31, 0x32, 0x33, 0x34, 0x35, 0x36, 0x37, 0x38, 0x39,
     0x41, 0x42, 0x43, 0x44, 0x45, 0x46, 0x47, 0x48,
     0x4A, 0x4B, 0x4D, 0x4E,
     0x50, 0x51, 0x52, 0x53, 0x54,
     0x56, 0x57, 0x58, 0x59, 0x5A]

/-- `code(ALPHABET[g])` (R130). -/
def charCode (g : BitVec 5) : Byte := alphabet[g.toFin]

/-- Group `i` (0..25) of an identifier: `P[129-5i : 125-5i]` of `P = 0b00 ++ V` (R131). -/
def group (v : Ident) (i : Nat) : BitVec 5 := (0#2 ++ v : BitVec 130).extractLsb' (125 - 5 * i) 5

/-- Byte `i` of the string buffer after a RENDER: 26 characters and the terminator 0x00 (R133, R134). -/
def renderByte (v : Ident) (i : Nat) : Byte := if i < 26 then charCode (group v i) else 0x00

/-- The 27 bytes RENDER stores for the identifier `v` (R134). -/
def renderStr (v : Ident) : Str := Vector.ofFn fun i => .written (renderByte v i.val)

/-- One row of the schedule of R132: the character takes `((b[hi] & hiMask) << hiShift) | ((b[lo] >> loShift) & loMask)`.
A row that draws on one byte has `hiMask` 0. -/
structure ScheduleRow where
  hi : Fin 16
  hiMask : Byte
  hiShift : Nat
  lo : Fin 16
  loShift : Nat
  loMask : Byte
  deriving DecidableEq, Repr

/-- The 26 rows of the schedule as R132 tabulates them. RENDER itself follows R131. -/
def schedule : Vector ScheduleRow 26 :=
  #v[⟨0, 0x00, 0, 0, 5, 0x07⟩,
     ⟨0, 0x00, 0, 0, 0, 0x1F⟩,
     ⟨1, 0x00, 0, 1, 3, 0x1F⟩,
     ⟨1, 0x07, 2, 2, 6, 0x03⟩,
     ⟨2, 0x00, 0, 2, 1, 0x1F⟩,
     ⟨2, 0x01, 4, 3, 4, 0x0F⟩,
     ⟨3, 0x0F, 1, 4, 7, 0x01⟩,
     ⟨4, 0x00, 0, 4, 2, 0x1F⟩,
     ⟨4, 0x03, 3, 5, 5, 0x07⟩,
     ⟨5, 0x00, 0, 5, 0, 0x1F⟩,
     ⟨6, 0x00, 0, 6, 3, 0x1F⟩,
     ⟨6, 0x07, 2, 7, 6, 0x03⟩,
     ⟨7, 0x00, 0, 7, 1, 0x1F⟩,
     ⟨7, 0x01, 4, 8, 4, 0x0F⟩,
     ⟨8, 0x0F, 1, 9, 7, 0x01⟩,
     ⟨9, 0x00, 0, 9, 2, 0x1F⟩,
     ⟨9, 0x03, 3, 10, 5, 0x07⟩,
     ⟨10, 0x00, 0, 10, 0, 0x1F⟩,
     ⟨11, 0x00, 0, 11, 3, 0x1F⟩,
     ⟨11, 0x07, 2, 12, 6, 0x03⟩,
     ⟨12, 0x00, 0, 12, 1, 0x1F⟩,
     ⟨12, 0x01, 4, 13, 4, 0x0F⟩,
     ⟨13, 0x0F, 1, 14, 7, 0x01⟩,
     ⟨14, 0x00, 0, 14, 2, 0x1F⟩,
     ⟨14, 0x03, 3, 15, 5, 0x07⟩,
     ⟨15, 0x00, 0, 15, 0, 0x1F⟩]

/-- The value a schedule row takes from the bytes of an identifier (R132). -/
def ScheduleRow.extract (r : ScheduleRow) (b : Vector Byte 16) : Byte :=
  ((b[r.hi] &&& r.hiMask) <<< r.hiShift) ||| ((b[r.lo] >>> r.loShift) &&& r.loMask)

/-- RENDER (R134). -/
def execRender (src : SlotId) (s : State) : Host.Outcome State Fault Refusal :=
  s.runSingle (.render src) fun t => t.setStr (renderStr (val128 (t.slotBytes src)))

/-- EXTRACT (R139). -/
def execExtract (src : SlotId) (s : State) : Host.Outcome State Fault Refusal :=
  s.runSingle (.extract src) fun t => t.setResult ((ts48 (t.slotBytes src)).setWidth 64)

end Sys2Proof.Machine
end

