-- ==== Sys2Proof/Machine/Identifier.lean ====
section
/-! DEFINITION. The identifier commands CMP, EQ and COPY (42_identifier_ops.md). -/

namespace Sys2Proof.Machine

/-- The order of two byte sequences by the first index at which they differ, unsigned: -1, 0 or +1 (R150). -/
def compareBytes : List Byte → List Byte → Dword
  | a :: as, b :: bs =>
    if a = b then compareBytes as bs
    else if a.toNat < b.toNat then 0xFFFF_FFFF_FFFF_FFFF else 0x0000_0000_0000_0001
  | [], _ => 0
  | _ :: _, [] => 0

/-- RESULT of CMP on two identifiers (R150). -/
def cmpResult (a b : Vector Byte 16) : Dword := compareBytes a.toList b.toList

/-- RESULT of EQ on two identifiers (R151). -/
def eqResult (a b : Vector Byte 16) : Dword := if a = b then 1 else 0

/-- CMP (R150). -/
def execCmp (a b : SlotId) (s : State) : Host.Outcome State Fault Refusal :=
  s.runSingle (.cmp a b) fun t => t.setResult (cmpResult (t.slotBytes a) (t.slotBytes b))

/-- EQ (R151). -/
def execEq (a b : SlotId) (s : State) : Host.Outcome State Fault Refusal :=
  s.runSingle (.eq a b) fun t => t.setResult (eqResult (t.slotBytes a) (t.slotBytes b))

/-- COPY (R152): every byte with its written status. -/
def execCopy (src dst : SlotId) (s : State) : Host.Outcome State Fault Refusal :=
  s.runSingle (.copy src dst) fun t => t.setSlot dst (t.slot src)

end Sys2Proof.Machine
end

