-- ==== Sys2Proof/Machine/Dispatch.lean ====
section
/-! DEFINITION. The meaning of every command: one direct call for each constructor of `Instr`. -/

namespace Sys2Proof.Machine

/-- What command `i` does next in state `s`: with BUSY = 0 its issue (30_encoding R90), with BUSY = 1 its CORE step in
the phase the sequencer is in (R103, R106 to R108, R134, R139, R150 to R152). -/
def exec (i : Instr) (s : State) : Host.Outcome State Fault Refusal :=
  match i with
  | .encPort dst => Sys2Proof.Machine.execEncPort dst s
  | .encConst dst imm => Sys2Proof.Machine.execEncConst dst imm s
  | .encSkip dst => Sys2Proof.Machine.execEncSkip dst s
  | .encBulk dst => Sys2Proof.Machine.execEncBulk dst s
  | .render src => Sys2Proof.Machine.execRender src s
  | .extract src => Sys2Proof.Machine.execExtract src s
  | .cmp a b => Sys2Proof.Machine.execCmp a b s
  | .eq a b => Sys2Proof.Machine.execEq a b s
  | .copy src dst => Sys2Proof.Machine.execCopy src dst s

end Sys2Proof.Machine
end

