-- ==== Sys2Proof/Machine/Sequencer.lean ====
section
/-! DEFINITION. A turn of CORE: the command latched at acceptance takes its next step (10_state R37, 70 R222, R230). -/

namespace Sys2Proof.Machine

/-- The command the sequencer has latched, read from its fields as the decoder reads a word's (R37, R87). -/
def Sequencer.running (q : Sequencer) : Except DecodeError Instr := decodeFields q.op q.sa q.sb q.imm

/-- CORE takes its turn: the running command's step; no step while no command runs (R90, R222). -/
def State.coreTurn (s : State) : Host.Outcome State Fault Refusal :=
  if s.status.busy then
    match s.seq.running with
    | .ok i => exec i s
    | .error _ => .fault .noSuchCommand
  else .next s

end Sys2Proof.Machine
end

