-- ==== Sys2Proof/Machine/Window.lean ====
section
/-! DEFINITION. The register window: the map (20_memory R52), reads and writes of it (R53 to R60), and a write of CMD,
which issues a command (30_encoding R87, R90). Also the host's notation (R89). -/

namespace Sys2Proof.Machine

/-- The register at a byte offset, if the map admits the offset (R52, R57). -/
def regAt (off : BitVec 8) : Option Reg :=
  if off.toNat % 4 = 0 then
    match off.toNat / 4 with
    | 0 => some .cmd
    | 1 => some .status
    | 2 => some .cfg
    | 4 => some .tsLo
    | 5 => some .tsHi
    | 6 => some .ctxLo
    | 7 => some .ctxHi
    | 8 => some .resultLo
    | 9 => some .resultHi
    | n =>
      if h : 16 ≤ n ∧ n < 32 then some (.slotWord ⟨(n - 16) / 4, by omega⟩ ⟨(n - 16) % 4, by omega⟩)
      else if h : 32 ≤ n ∧ n < 39 then some (.strWord ⟨n - 32, by omega⟩)
      else none
  else none

/-- The byte offset of a register (R52). -/
def Reg.offset : Reg → BitVec 8
  | .cmd => 0x00
  | .status => 0x04
  | .cfg => 0x08
  | .tsLo => 0x10
  | .tsHi => 0x14
  | .ctxLo => 0x18
  | .ctxHi => 0x1C
  | .resultLo => 0x20
  | .resultHi => 0x24
  | .slotWord s j => .ofNat 8 (0x40 + 0x10 * s.val + 4 * j.val)
  | .strWord j => .ofNat 8 (0x80 + 4 * j.val)

/-- Word `j` of a slot: byte 4j in the most significant bits (R53). -/
def slotWord (b : Vector Byte 16) (j : Fin 4) : Word :=
  b[4 * j.val] ++ b[4 * j.val + 1] ++ b[4 * j.val + 2] ++ b[4 * j.val + 3]

/-- Byte `m` (0..3) of a host word, 0 the most significant (R53). -/
def wordByte (v : Word) (m : Nat) : Byte := v.extractLsb' (24 - 8 * m) 8

/-- A slot after a host write of `v` to its word `j`: the four bytes 4j..4j+3, whole (R53, R228). -/
def Slot.withWord (j : Fin 4) (v : Word) (b : Slot) : Slot :=
  Vector.ofFn fun k => if k.val / 4 = j.val then .written (wordByte v (k.val % 4)) else b[k]

/-- Byte `i` of the string as the window shows it: STR[i] for i = 0..26, and the pad byte 0x00 after it (R54). -/
def Str.byte (t : Str) (i : Nat) : Byte := if h : i < 27 then t[i].val else 0x00

/-- String word `j`: character 4j in the most significant bits (R54). -/
def strWord (t : Str) (j : Fin 7) : Word :=
  Str.byte t (4 * j.val) ++ Str.byte t (4 * j.val + 1) ++ Str.byte t (4 * j.val + 2) ++ Str.byte t (4 * j.val + 3)

/-- The value of a register as an idle block shows it (R28, R29, R35, R53 to R55). -/
def State.regValue (r : Reg) (s : State) : Word :=
  match r with
  | .cmd => 0
  | .status => s.status.word
  | .cfg => s.cfg.word
  | .tsLo => s.ts.lo.val
  | .tsHi => s.ts.hi.val
  | .ctxLo => s.ctx.lo.val
  | .ctxHi => s.ctx.hi.val
  | .resultLo => s.result.lo.val
  | .resultHi => s.result.hi.val
  | .slotWord d j => slotWord (s.slotBytes d) j
  | .strWord j => strWord s.str j

/-- The registers whose read is unspecified while a command runs: slot words, RESULT and string words (R60). -/
def Reg.hiddenWhileBusy : Reg → Bool
  | .cmd => false
  | .status => false
  | .cfg => false
  | .tsLo => false
  | .tsHi => false
  | .ctxLo => false
  | .ctxHi => false
  | .resultLo => true
  | .resultHi => true
  | .slotWord _ _ => true
  | .strWord _ => true

/-- A 32-bit read of a register: its value, or a fresh free value where BUSY = 1 makes it unspecified (R58, R60). -/
def State.readReg (r : Reg) (s : State) : State :=
  if s.status.busy && r.hiddenWhileBusy then
    { s with response := .data r (Config.unspecified 32 s.draws), draws := s.draws + 1 }
  else s.respond (.data r (s.regValue r))

/-- A write of `w` to CMD while BUSY = 0: decode, then the command's issue or ILLEGAL_CMD (R87, R90, R192). -/
def State.issueWord (w : Word) (s : State) : Host.Outcome State Fault Refusal :=
  match decodeWord w with
  | .ok i => exec i s
  | .error _ => .next (s.cmdError .illegalCmd)

/-- A write that only stores: refused with OVR while BUSY = 1, else done (R58, R60, R194). -/
def State.storeIfIdle (store : State → State) (s : State) : State :=
  if s.status.busy then s.overrun else (store s).respond .written

/-- A 32-bit write of `v` to a register (R28, R29, R53, R55, R58, R60). -/
def State.writeReg (r : Reg) (v : Word) (s : State) : Host.Outcome State Fault Refusal :=
  match r with
  | .cmd => if s.status.busy then .next s.overrun else (s.respond .written).issueWord v
  | .status => .next { s with status := s.status.hostWrite v, response := .written }
  | .cfg => .next (s.respond .written)
  | .tsLo => .next (s.storeIfIdle fun t => { t with ts := { t.ts with lo := .written v } })
  | .tsHi => .next (s.storeIfIdle fun t => { t with ts := { t.ts with hi := .written v } })
  | .ctxLo => .next (s.storeIfIdle fun t => { t with ctx := { t.ctx with lo := .written v } })
  | .ctxHi => .next (s.storeIfIdle fun t => { t with ctx := { t.ctx with hi := .written v } })
  | .resultLo => .next (s.respond .written)
  | .resultHi => .next (s.respond .written)
  | .slotWord d j => .next (s.storeIfIdle fun t => t.setSlot d ((t.slot d).withWord j v))
  | .strWord _ => .next (s.respond .written)

/-- One host access: a bus error unless it is 32 bits wide at an offset the map admits (R57, R193, R195). -/
def State.access (a : Access) (s : State) : Host.Outcome State Fault Refusal :=
  match a with
  | .read off bytes =>
    match regAt off with
    | some r => .next (if bytes = 4 then s.readReg r else s.busError)
    | none => .next s.busError
  | .write off bytes v =>
    match regAt off with
    | some r => if bytes = 4 then s.writeReg r v else .next s.busError
    | none => .next s.busError

/-- `wr REG, v` (R89). -/
def wr (r : Reg) (v : Word) : Input := .host (.write r.offset 4 v)

/-- `rd REG` (R89). -/
def rd (r : Reg) : Input := .host (.read r.offset 4)

/-- `wr64 TS, v` (R89). -/
def wr64Ts (v : Dword) : List Input := [wr .tsLo (v.extractLsb' 0 32), wr .tsHi (v.extractLsb' 32 32)]

/-- `wr64 CTX, v` (R89). -/
def wr64Ctx (v : Dword) : List Input := [wr .ctxLo (v.extractLsb' 0 32), wr .ctxHi (v.extractLsb' 32 32)]

/-- `cmd C` (R89). -/
def cmdInput (i : Instr) : Input := wr .cmd (encode i)

end Sys2Proof.Machine
end

