-- ==== Sys2Proof/Machine/Step.lean ====
section
/-! DEFINITION. One step of the machine: the next thing that happens, as the state's own list of inputs says (00_scope R10,
20_memory R61), and where a command word is placed so that the next step issues it. -/

namespace Sys2Proof.Machine

/-- What the input `e` does to `s`. -/
def State.perform (e : Input) (s : State) : Host.Outcome State Fault Refusal :=
  match e with
  | .host a => s.access a
  | .core => s.coreTurn
  | .ent epoch a => .next (s.entAnswers epoch a)
  | .bulk epoch a => .next (s.bulkAnswers epoch a)
  | .reset => .next s.assertReset

/-- One step: the first input happens and is used up. With nothing left to happen CORE goes on, so that a step that
stays enabled is taken (R230), and a command whose port never answers waits (R169). -/
def step (s : State) : Host.Outcome State Fault Refusal :=
  match s.inputs with
  | [] => s.coreTurn
  | e :: rest => ({ s with inputs := rest }).perform e

/-- `s` with the word `w` as the host's next CMD write, and no command running, so that the next step decodes the word
and issues its command. -/
def State.withFetchWord (s : State) (nbits w : Nat) : State :=
  { s with
    inputs := .host (.write 0x00 4 (BitVec.ofNat 32 (w % 2 ^ nbits))) :: s.inputs,
    status := { s.status with busy := false },
    seq := { s.seq with phase := .idle },
    entAnswer := none,
    bulkAnswer := none }

end Sys2Proof.Machine
end

