-- ==== Sys2Proof/Safety.lean ====
section
/-! DEFINITION. The terms claims are stated in: how a command starts, who moves in a step, the invariant of the machine
(10_state R37, R31; 40_encoder R103, R108), what data a command needs (70 R223, U7), and the end of a host program (R231). -/

namespace Sys2Proof.Machine

/-- The command completes in one CORE step (R62, R90): every command but the two that use a port. -/
def Instr.singleStep : Instr → Bool
  | .encPort _ => false
  | .encConst _ _ => true
  | .encSkip _ => true
  | .encBulk _ => false
  | .render _ => true
  | .extract _ => true
  | .cmp _ _ => true
  | .eq _ _ => true
  | .copy _ _ => true

/-- Issued with BUSY = 0 in a state that meets `ok`, the command `i` is accepted into `phase`, with FALLBACK and `fb`
equal to `fb`: STATUS and the sequencer as R90 says, and nothing else changes. Where R90 says nothing of `fb` and `k`,
that acceptance clears `fb` and keeps `k` is the model's reading of R37: notes/assumptions/11. -/
def IssuedInto (i : Instr) (ok : State → Prop) (phase : Phase) (fb : Bool) : Prop :=
  ∀ s : State, s.status.busy = false → ok s →
    exec i s = .next { s with
      status := { busy := true, err := .ok, degraded := false, fallback := fb, ovr := s.status.ovr },
      seq := { phase := phase, op := i.fields.op, sa := i.fields.sa, sb := i.fields.sb, imm := i.fields.imm,
               ts := s.ts.val, ctx := s.ctx.val, k := s.seq.k, fb := fb } }

/-- Issued with BUSY = 0 and `ENT_PRESENT` = 0, the command `i` ends in INVALID_ARG: STATUS alone changes (R192). -/
def RefusedWithoutEnt (i : Instr) : Prop :=
  ∀ s : State, s.status.busy = false → s.cfg.entPresent = false →
    exec i s = .next { s with
      status := { busy := false, err := .invalidArg, degraded := false, fallback := false, ovr := s.status.ovr } }

/-- The next thing that happens is an admitted host write of `v` to `r`. -/
def State.hostWrites (s : State) (r : Reg) (v : Word) : Prop := s.inputs.head? = some (wr r v)

/-- The next thing that happens is the reset input. -/
def State.resetComes (s : State) : Prop := s.inputs.head? = some .reset

/-- The next thing that happens is a turn of CORE, and `i` is the command that runs. -/
def State.coreRuns (s : State) (i : Instr) : Prop :=
  (s.inputs.head? = some .core ∨ s.inputs = []) ∧ s.status.busy = true ∧ s.seq.running = .ok i

/-- The command that runs uses the byte port: ENC.PORT, or ENC.BULK in its fallback (R103, R109). -/
def State.runsOnPort (s : State) : Prop :=
  (∃ d, s.seq.running = .ok (.encPort d)) ∨
  (∃ d, s.seq.running = .ok (.encBulk d)) ∧ s.seq.fb = true ∧ s.status.fallback = true

/-- What holds of the machine between any two steps. -/
structure State.Inv (s : State) : Prop where
  /-- `phase` = IDLE exactly when STATUS.BUSY = 0 (R37). -/
  idle_iff : s.seq.phase = .idle ↔ s.status.busy = false
  /-- A command that was accepted set ERR to 0, and ERR keeps it while the command runs (R31). -/
  err_of_busy : s.status.busy = true → s.status.err = .ok
  /-- In EXEC a command that completes in one step runs, and DEGRADED and FALLBACK are 0 (R90, R106). -/
  exec_runs : s.seq.phase = .exec →
    (∃ i, s.seq.running = .ok i ∧ Instr.singleStep i = true) ∧ s.status.degraded = false ∧ s.status.fallback = false
  /-- In TSWRITE and ENTWAIT a command runs that uses the byte port, and the port is present (R103, R109, R174). -/
  port_runs : s.seq.phase = .tsWrite ∨ s.seq.phase = .entWait → s.runsOnPort ∧ s.cfg.entPresent = true
  /-- In BULKWAIT an ENC.BULK runs that has not fallen back, and both ports are present (R108, R174). -/
  bulk_runs : s.seq.phase = .bulkWait →
    (∃ d, s.seq.running = .ok (.encBulk d)) ∧ s.seq.fb = false ∧ s.status.fallback = false ∧
      s.status.degraded = false ∧ s.cfg.entPresent = true ∧ s.cfg.bulkPresent = true
  /-- The index of the next entropy byte is 6..15 while an answer is awaited (R37). -/
  index_of_wait : s.seq.phase = .entWait → 6 ≤ s.seq.k.val
  /-- An answer of ENT is held only in ENTWAIT, for the request made there: the model's reading, notes/assumptions/6. -/
  ent_answer : s.entAnswer ≠ none → s.seq.phase = .entWait
  /-- An answer of BULK is held only in BULKWAIT, for the request made there: the model's reading, notes/assumptions/6. -/
  bulk_answer : s.bulkAnswer ≠ none → s.seq.phase = .bulkWait
  /-- FALLBACK is left by an ENC.BULK that fell back, and by no other command (R33). That `op` and `fb` still tell so after
  it has completed is the model's reading: notes/assumptions/11. -/
  fallback_of_bulk : s.status.fallback = true → s.seq.op = 0x4 ∧ s.seq.fb = true
  /-- DEGRADED is left by an ENC.PORT or by the fallback of an ENC.BULK (R32). That `op` and `fb` still tell so after it has
  completed is the model's reading: notes/assumptions/11. -/
  degraded_of_port : s.status.degraded = true → s.seq.op = 0x1 ∨ s.seq.op = 0x4 ∧ s.seq.fb = true

/-- The slot bytes a command needs the value of are written (R38, U7): all 16 for RENDER, CMP and EQ, bytes 0..5 for
EXTRACT, none for COPY and the encodes. -/
def State.slotOperandsWritten (i : Instr) (s : State) : Bool :=
  match i with
  | .encPort _ => true
  | .encConst _ _ => true
  | .encSkip _ => true
  | .encBulk _ => true
  | .render d => Slot.isWritten (s.slot d)
  | .extract d => ((s.slot d).toList.take 6).all Data.isWritten
  | .cmp a b => Slot.isWritten (s.slot a) && Slot.isWritten (s.slot b)
  | .eq a b => Slot.isWritten (s.slot a) && Slot.isWritten (s.slot b)
  | .copy _ _ => true

/-- The registers a command needs the value of at its issue are written (R223, U7): TS for every encode, CTX for those
that use a port. -/
def State.registerOperandsWritten (i : Instr) (s : State) : Bool :=
  match i with
  | .encPort _ => s.ts.isWritten && s.ctx.isWritten
  | .encConst _ _ => s.ts.isWritten
  | .encSkip _ => s.ts.isWritten
  | .encBulk _ => s.ts.isWritten && s.ctx.isWritten
  | .render _ => true
  | .extract _ => true
  | .cmp _ _ => true
  | .eq _ _ => true
  | .copy _ _ => true

/-- Two data agree on what is written: they are equal, or both unwritten, whatever their tags. -/
def Data.agree {w : Nat} (a b : Data w) : Prop := a = b ∨ a.isWritten = false ∧ b.isWritten = false

/-- Two states differ at most in the values of unwritten data and in the model's own fields (R38). -/
structure State.AgreeOnWritten (s t : State) : Prop where
  slots : ∀ (d : SlotId) (k : Fin 16), Data.agree (s.slot d)[k] (t.slot d)[k]
  ts_lo : Data.agree s.ts.lo t.ts.lo
  ts_hi : Data.agree s.ts.hi t.ts.hi
  ctx_lo : Data.agree s.ctx.lo t.ctx.lo
  ctx_hi : Data.agree s.ctx.hi t.ctx.hi
  result_lo : Data.agree s.result.lo t.result.lo
  result_hi : Data.agree s.result.hi t.result.hi
  str : ∀ i : Fin 27, Data.agree s.str[i] t.str[i]
  status : s.status = t.status
  cfg : s.cfg = t.cfg
  seq : s.seq = t.seq

/-- No host access is left to happen. -/
def State.hostDone (s : State) : Bool := s.inputs.all fun e =>
  match e with
  | .host _ => false
  | .core => true
  | .ent _ _ => true
  | .bulk _ _ => true
  | .reset => true

/-- A host program has ended (R231), `run` being the states from its first access to its last: no access got a bus
error, and the last access was a STATUS read that returned BUSY = 0. -/
def ProgramEnded (run : List State) : Prop :=
  (∀ t ∈ run, t.response ≠ .busError) ∧
  ∃ t, run.getLast? = some t ∧ t.hostDone = true ∧ ∃ v, t.response = .data .status v ∧ v.getLsbD 0 = false

/-- If the last host access was a STATUS read that returned BUSY = 0, then no command runs. -/
def State.IdleAsRead (s : State) : Prop :=
  ∀ v, s.response = .data .status v → v.getLsbD 0 = false → s.status.busy = false

end Sys2Proof.Machine
end

