-- ==== Sys2Proof/Certificates/Slice0/Obligations.lean ====
section
/-! DEFINITION. The statements for the provers, from the numbered rules of spec/. -/

open Sys2Proof Sys2Proof.Machine

/-! ## Encoding (30_encoding.md, 20_memory.md R52) -/

/-- R82, R87, R88: no bit of a command's encoding is dropped or misplaced. -/
def Obligations.DecodeOfEncode : Prop := ∀ i : Instr, decodeWord (encode i) = .ok i

/-- R82, R87: a legal word has one meaning, and it is the word of that command. -/
def Obligations.EncodeOfDecode : Prop :=
  ∀ (w : Word) (i : Instr), decodeWord w = .ok i → encode i = w ∧ i.wellFormed = true

/-- R87: exactly 1092 of the 2^32 words are legal. -/
def Obligations.LegalWordsAre1092 : Prop := Nat.card { w : Word // ∃ i, decodeWord w = .ok i } = 1092

/-- R83: the must-be-zero fields of each opcode. R84: the reserved opcodes. -/
def Obligations.MustBeZeroFieldsAndReservedOpcodes : Prop :=
  ∀ w : Word,
    let op := (w.extractLsb' 0 4).toNat
    let sb := w.extractLsb' 6 2
    let imm := w.extractLsb' 8 8
    let illegal := ∃ e, decodeWord w = .error e
    (w.extractLsb' 16 16 ≠ 0 → illegal) ∧
    ((op = 0x1 ∨ op = 0x3 ∨ op = 0x4 ∨ op = 0x5 ∨ op = 0x6) → (sb ≠ 0 ∨ imm ≠ 0) → illegal) ∧
    (op = 0x2 → sb ≠ 0 → illegal) ∧
    ((op = 0x7 ∨ op = 0x8 ∨ op = 0x9) → imm ≠ 0 → illegal) ∧
    ((op = 0x0 ∨ 0xA ≤ op) → illegal)

/-- R82: a word is a row's exactly when it matches under the row's mask, and no word matches two rows. -/
def Obligations.WordsMatchTheirTableRow : Prop :=
  (∀ (w : Word) (i : Instr), decodeWord w = .ok i → w &&& i.tableMask = i.tableMatch) ∧
  (∀ (w : Word) (i : Instr), w &&& i.tableMask = i.tableMatch →
    ∃ j, decodeWord w = .ok j ∧ j.tableMatch = i.tableMatch) ∧
  (∀ (w : Word) (i j : Instr), w &&& i.tableMask = i.tableMatch → w &&& j.tableMask = j.tableMatch →
    i.tableMatch = j.tableMatch)

/-- R88: the five example words. -/
def Obligations.ExampleWordsDecode : Prop :=
  decodeWord 0x0000_AB02 = .ok (.encConst 0 0xAB) ∧ decodeWord 0x0000_0011 = .ok (.encPort 1) ∧
  decodeWord 0x0000_0035 = .ok (.render 3) ∧ decodeWord 0x0000_0047 = .ok (.cmp 0 1) ∧
  decodeWord 0x0000_00E9 = .ok (.copy 2 3)

/-- R52: the map and the offsets of the registers are inverse to each other, and the unmapped offsets are those R52
lists. -/
def Obligations.RegisterMapIsR52 : Prop :=
  (∀ r : Reg, regAt r.offset = some r) ∧
  (∀ (off : BitVec 8) (r : Reg), regAt off = some r → r.offset = off) ∧
  (∀ off : BitVec 8, regAt off = none ↔
    off.toNat % 4 ≠ 0 ∨ off.toNat = 0x0C ∨ 0x28 ≤ off.toNat ∧ off.toNat ≤ 0x3C ∨ 0x9C ≤ off.toNat)

/-! ## The register window (20_memory.md, 60_exceptions.md) -/

/-- R57, R195: an access of another width, or at an offset the map does not admit, gets an error response and changes
nothing of the block, whether or not a command runs. -/
def Obligations.BusErrorChangesNothing : Prop :=
  ∀ (s : State) (off : BitVec 8) (bytes : Nat) (v : Word) (rest : List Input),
    (bytes ≠ 4 ∨ off.toNat % 4 ≠ 0 ∨ off.toNat = 0x0C ∨ 0x28 ≤ off.toNat ∧ off.toNat ≤ 0x3C ∨ 0x9C ≤ off.toNat) →
    (s.inputs = .host (.read off bytes) :: rest ∨ s.inputs = .host (.write off bytes v) :: rest) →
    step s = .next { s with inputs := rest, response := .busError }

/-- R58: a read changes no register; an admitted one answers with data of the register read. -/
def Obligations.ReadsHaveNoSideEffect : Prop :=
  ∀ (s : State) (r : Reg) (rest : List Input), s.inputs = rd r :: rest →
    ∃ (v : Word) (n : Nat),
      step s = .next { s with inputs := rest, response := .data r v, draws := n } ∧
      (r.hiddenWhileBusy = false ∨ s.status.busy = false → v = s.regValue r ∧ n = s.draws)

/-- R53: slot words are big-endian, both ways; a write sets the four bytes of its word and no other. -/
def Obligations.SlotWordsAreBigEndian : Prop :=
  ∀ (s : State) (d : SlotId) (j : Fin 4) (rest : List Input), s.status.busy = false →
    (s.inputs = rd (.slotWord d j) :: rest →
      step s = .next { s with
        inputs := rest,
        response := .data (.slotWord d j) ((val128 (s.slotBytes d)).extractLsb' (96 - 32 * j.val) 32) }) ∧
    (∀ v : Word, s.inputs = wr (.slotWord d j) v :: rest →
      ∃ t, step s = .next t ∧
        (∀ k : Fin 16, k.val = 4 * j.val → (t.slot d)[k] = .written (v.extractLsb' 24 8)) ∧
        (∀ k : Fin 16, k.val = 4 * j.val + 1 → (t.slot d)[k] = .written (v.extractLsb' 16 8)) ∧
        (∀ k : Fin 16, k.val = 4 * j.val + 2 → (t.slot d)[k] = .written (v.extractLsb' 8 8)) ∧
        (∀ k : Fin 16, k.val = 4 * j.val + 3 → (t.slot d)[k] = .written (v.extractLsb' 0 8)) ∧
        (∀ k : Fin 16, k.val / 4 ≠ j.val → (t.slot d)[k] = (s.slot d)[k]) ∧
        (∀ e, e ≠ d → t.slot e = s.slot e) ∧
        t = { s with slots := t.slots, response := .written, inputs := rest })

/-- R54: string words are big-endian, and word 6 ends in the pad byte. -/
def Obligations.StringWordsAreBigEndian : Prop :=
  ∀ (s : State) (j : Fin 7) (rest : List Input), s.status.busy = false → s.inputs = rd (.strWord j) :: rest →
    ∃ v : Word, step s = .next { s with inputs := rest, response := .data (.strWord j) v } ∧
      ∀ m : Fin 4,
        v.extractLsb' (24 - 8 * m.val) 8 =
          if h : 4 * j.val + m.val < 27 then (s.str[4 * j.val + m.val]).val else 0x00

/-- R55: LO, at the lower offset, is the low half and HI, 4 above it, the high half of a 64-bit register, and a write to
one half changes only that half. -/
def Obligations.HalvesOf64BitRegisters : Prop :=
  (Reg.tsHi.offset = Reg.tsLo.offset + 4 ∧ Reg.ctxHi.offset = Reg.ctxLo.offset + 4 ∧
    Reg.resultHi.offset = Reg.resultLo.offset + 4) ∧
  (∀ s : State,
    s.regValue .tsLo = s.ts.val.extractLsb' 0 32 ∧ s.regValue .tsHi = s.ts.val.extractLsb' 32 32 ∧
    s.regValue .ctxLo = s.ctx.val.extractLsb' 0 32 ∧ s.regValue .ctxHi = s.ctx.val.extractLsb' 32 32 ∧
    s.regValue .resultLo = s.result.val.extractLsb' 0 32 ∧ s.regValue .resultHi = s.result.val.extractLsb' 32 32) ∧
  (∀ (s : State) (v : Word) (rest : List Input), s.status.busy = false →
    (s.inputs = wr .tsLo v :: rest → step s = .next { s with
      ts := { lo := .written v, hi := s.ts.hi }, inputs := rest, response := .written }) ∧
    (s.inputs = wr .tsHi v :: rest → step s = .next { s with
      ts := { lo := s.ts.lo, hi := .written v }, inputs := rest, response := .written }) ∧
    (s.inputs = wr .ctxLo v :: rest → step s = .next { s with
      ctx := { lo := .written v, hi := s.ctx.hi }, inputs := rest, response := .written }) ∧
    (s.inputs = wr .ctxHi v :: rest → step s = .next { s with
      ctx := { lo := s.ctx.lo, hi := .written v }, inputs := rest, response := .written }))

/-- R29: the bits of STATUS as the host reads them, in every state; a host write of STATUS clears OVR when bit 5 of the
written word is 1 and changes nothing else, also while BUSY = 1. -/
def Obligations.StatusBitsAndWrite : Prop :=
  (∀ t : Status,
    t.word.getLsbD 0 = t.busy ∧
    (t.word.extractLsb' 1 2).toNat = (match t.err with | .ok => 0 | .illegalCmd => 1 | .invalidArg => 2) ∧
    t.word.getLsbD 3 = t.degraded ∧ t.word.getLsbD 4 = t.fallback ∧ t.word.getLsbD 5 = t.ovr ∧
    t.word.extractLsb' 6 26 = 0) ∧
  (∀ (s : State) (rest : List Input), s.inputs = rd .status :: rest →
    step s = .next { s with inputs := rest, response := .data .status s.status.word }) ∧
  (∀ (s : State) (v : Word) (rest : List Input), s.inputs = wr .status v :: rest →
    step s = .next { s with
      inputs := rest, response := .written,
      status := { s.status with ovr := s.status.ovr && !v.getLsbD 5 } })

/-- R60: what each access does while a command runs. That a refused or ignored write is answered like a taken one, with no
bus error, is the model's reading: notes/assumptions/7. -/
def Obligations.AccessesWhileBusy : Prop :=
  ∀ (s : State) (rest : List Input), s.status.busy = true →
    (∀ (r : Reg) (v : Word), s.inputs = wr r v :: rest →
      (r = .cmd ∨ r = .tsLo ∨ r = .tsHi ∨ r = .ctxLo ∨ r = .ctxHi ∨ (∃ d j, r = .slotWord d j)) →
      step s = .next { s with inputs := rest, response := .written, status := { s.status with ovr := true } }) ∧
    (∀ v : Word, s.inputs = wr .status v :: rest →
      step s = .next { s with
        inputs := rest, response := .written,
        status := { s.status with ovr := s.status.ovr && !v.getLsbD 5 } }) ∧
    (∀ (r : Reg) (v : Word), s.inputs = wr r v :: rest →
      (r = .cfg ∨ r = .resultLo ∨ r = .resultHi ∨ (∃ j, r = .strWord j)) →
      step s = .next { s with inputs := rest, response := .written }) ∧
    (∀ r : Reg, s.inputs = rd r :: rest →
      (r = .status ∨ r = .cfg ∨ r = .tsLo ∨ r = .tsHi ∨ r = .ctxLo ∨ r = .ctxHi) →
      step s = .next { s with inputs := rest, response := .data r (s.regValue r) }) ∧
    (∀ r : Reg, s.inputs = rd r :: rest →
      (r = .resultLo ∨ r = .resultHi ∨ (∃ d j, r = .slotWord d j) ∨ (∃ j, r = .strWord j)) →
      ∃ v n, step s = .next { s with inputs := rest, response := .data r v, draws := n }) ∧
    (∀ (off : BitVec 8) (bytes : Nat) (v : Word), bytes ≠ 4 ∨ regAt off = none →
      (s.inputs = .host (.read off bytes) :: rest ∨ s.inputs = .host (.write off bytes v) :: rest) →
      step s = .next { s with inputs := rest, response := .busError })

/-- R28: a read of CMD returns 0, and a write of CMD keeps no value: what it does to the block is R90's. Also R58: writes
of the read-only registers are ignored, with BUSY 0 or 1. That an ignored write is answered like a taken one is the model's
reading: notes/assumptions/7. -/
def Obligations.CmdReadsZeroAndReadOnlyIgnoreWrites : Prop :=
  ∀ (s : State) (rest : List Input),
    (s.inputs = rd .cmd :: rest → step s = .next { s with inputs := rest, response := .data .cmd 0 }) ∧
    (∀ (r : Reg) (v : Word), s.inputs = wr r v :: rest →
      (r = .cfg ∨ r = .resultLo ∨ r = .resultHi ∨ (∃ j, r = .strWord j)) →
      step s = .next { s with inputs := rest, response := .written })

/-- R193: the priority of the causes of one write access: bus error, then overrun, then ILLEGAL_CMD, then INVALID_ARG. That
a refused CMD write is answered like a taken one, with no bus error, is the model's reading: notes/assumptions/7. -/
def Obligations.PriorityOfCauses : Prop :=
  ∀ (s : State) (off : BitVec 8) (bytes : Nat) (v : Word) (rest : List Input),
    s.inputs = .host (.write off bytes v) :: rest →
    if bytes ≠ 4 ∨ regAt off = none then
      step s = .next { s with inputs := rest, response := .busError }
    else if regAt off = some .cmd then
      if s.status.busy = true then
        step s = .next { s with inputs := rest, response := .written, status := { s.status with ovr := true } }
      else
        match decodeWord v with
        | .error _ => step s = .next { s with
            inputs := rest, response := .written,
            status := { busy := false, err := .illegalCmd, degraded := false, fallback := false, ovr := s.status.ovr } }
        | .ok i =>
          if Instr.singleStep i = false ∧ s.cfg.entPresent = false then
            step s = .next { s with
              inputs := rest, response := .written,
              status := { busy := false, err := .invalidArg, degraded := false, fallback := false, ovr := s.status.ovr } }
          else ∃ t, step s = .next t ∧ t.status.err = .ok ∧ t.status.busy = true
    else ∃ t, step s = .next t ∧ t.status.err = s.status.err ∧ t.seq = s.seq

/-! ## Issue (30_encoding.md R90) -/

/-- A step runs the decoded command: a CMD write of a legal word with BUSY = 0 is `exec` of its command, and a turn of
CORE while a command runs is `exec` of the command latched. Around it the step uses up its input, and the CMD write is
answered on the bus. Two points are the model's own: that CORE takes its turn when no input is left (the third clause,
notes/assumptions/5), and that `exec` is the issue with BUSY = 0 and the CORE step with BUSY = 1 (notes/assumptions/9). -/
def Obligations.StepRunsTheDecodedCommand : Prop :=
  (∀ (s : State) (w : Word) (i : Instr) (rest : List Input),
    s.inputs = wr .cmd w :: rest → s.status.busy = false → decodeWord w = .ok i →
    step s = exec i { s with inputs := rest, response := .written }) ∧
  (∀ (s : State) (i : Instr) (rest : List Input),
    s.inputs = .core :: rest → s.status.busy = true → s.seq.running = .ok i →
    step s = exec i { s with inputs := rest }) ∧
  (∀ (s : State) (i : Instr),
    s.inputs = [] → s.status.busy = true → s.seq.running = .ok i → step s = exec i s)

/-- A word placed by `withFetchWord` is the one the next step decodes and issues (the model's own: notes/assumptions/8). -/
def Obligations.PlacedWordIsIssued : Prop :=
  ∀ (s : State) (w : Nat) (i : Instr), decodeTableWord 32 w = some i →
    step (s.withFetchWord 32 w) = exec i { s.withFetchWord 32 w with inputs := s.inputs, response := .written }

/-- R90 (and R226): what a CMD write of a legal word with BUSY = 0 leaves, command by command. R90 sets `fb` for ENC.BULK
without the bulk port; that acceptance clears it for every other command is the model's reading of R37:
notes/assumptions/11. -/
def Obligations.IssueLatchesOperands : Prop :=
  ∀ (s : State) (w : Word) (i : Instr) (rest : List Input),
    s.inputs = wr .cmd w :: rest → s.status.busy = false → decodeWord w = .ok i →
    (Instr.singleStep i = true ∨ s.cfg.entPresent = true) →
    let absent := (∃ d, i = .encBulk d) ∧ s.cfg.bulkPresent = false
    ∃ t, step s = .next t ∧
      t.status.busy = true ∧ t.status.err = .ok ∧ t.status.degraded = false ∧ t.status.ovr = s.status.ovr ∧
      (t.status.fallback = true ↔ absent) ∧
      t.seq.running = .ok i ∧ t.seq.ts = s.ts.val ∧ t.seq.ctx = s.ctx.val ∧ (t.seq.fb = true ↔ absent) ∧
      (Instr.singleStep i = true → t.seq.phase = .exec) ∧
      ((∃ d, i = .encPort d) → t.seq.phase = .tsWrite) ∧
      ((∃ d, i = .encBulk d) → t.seq.phase = if s.cfg.bulkPresent then .bulkWait else .tsWrite) ∧
      t = { s with status := t.status, seq := t.seq, response := .written, inputs := rest }

/-- R192: a command error sets ERR and leaves everything else, DEGRADED and FALLBACK being 0 afterwards. Its two causes
are an illegal word, and ENC.PORT or ENC.BULK with `ENT_PRESENT` = 0. -/
def Obligations.CommandErrorsOnlySetErr : Prop :=
  ∀ (s : State) (w : Word) (rest : List Input), s.inputs = wr .cmd w :: rest → s.status.busy = false →
    ((∃ e, decodeWord w = .error e) → step s = .next { s with
      inputs := rest, response := .written,
      status := { busy := false, err := .illegalCmd, degraded := false, fallback := false, ovr := s.status.ovr } }) ∧
    ((∃ d, decodeWord w = .ok (.encPort d) ∨ decodeWord w = .ok (.encBulk d)) → s.cfg.entPresent = false →
      step s = .next { s with
        inputs := rest, response := .written,
        status := { busy := false, err := .invalidArg, degraded := false, fallback := false, ovr := s.status.ovr } })

/-- R62: a STATUS read right after the CMD write sees the command running. -/
def Obligations.StatusReadAfterCmdSeesIt : Prop :=
  ∀ (s : State) (w : Word) (i : Instr) (rest : List Input),
    s.inputs = wr .cmd w :: rd .status :: rest → s.status.busy = false → decodeWord w = .ok i →
    (Instr.singleStep i = true ∨ s.cfg.entPresent = true) →
    ∃ t v, Host.Core.run core 2 s = .next t ∧ t.response = .data .status v ∧
      v.getLsbD 0 = true ∧ v.extractLsb' 1 2 = 0 ∧ t.inputs = rest

/-! ## The commands (40_encoder.md, 41_codec.md, 42_identifier_ops.md). A CORE step of a command is `exec` with BUSY = 1. -/

/-- R106: ENC.CONST. What its issue leaves in `fb` and `k` is the model's reading of R37: notes/assumptions/11. -/
def Obligations.EncConstCommand : Prop :=
  ∀ (d : SlotId) (v : Byte),
    (∀ w : Word, decodeWord w = .ok (.encConst d v) ↔ w = (0#16 ++ v ++ 0#2 ++ slotBits d ++ 0x2#4 : Word)) ∧
    IssuedInto (.encConst d v) (fun _ => True) .exec false ∧
    ∀ s : State, s.status.busy = true → s.seq.phase = .exec →
      ∃ t, exec (.encConst d v) s = .next t ∧
        (∀ k : Fin 16, k.val < 6 → (t.slot d)[k] = .written (tsByte s.seq.ts k.val)) ∧
        (∀ k : Fin 16, 6 ≤ k.val → (t.slot d)[k] = .written v) ∧
        (∀ e, e ≠ d → t.slot e = s.slot e) ∧
        t = { s with
          slots := t.slots, status := { s.status with busy := false }, seq := { s.seq with phase := .idle } }

/-- R107: ENC.SKIP. The entropy bytes keep their value and their written status. What its issue leaves in `fb` and `k` is
the model's reading of R37: notes/assumptions/11. -/
def Obligations.EncSkipCommand : Prop :=
  ∀ d : SlotId,
    (∀ w : Word, decodeWord w = .ok (.encSkip d) ↔ w = (0#16 ++ 0#8 ++ 0#2 ++ slotBits d ++ 0x3#4 : Word)) ∧
    IssuedInto (.encSkip d) (fun _ => True) .exec false ∧
    ∀ s : State, s.status.busy = true → s.seq.phase = .exec →
      ∃ t, exec (.encSkip d) s = .next t ∧
        (∀ k : Fin 16, k.val < 6 → (t.slot d)[k] = .written (tsByte s.seq.ts k.val)) ∧
        (∀ k : Fin 16, 6 ≤ k.val → (t.slot d)[k] = (s.slot d)[k]) ∧
        (∀ e, e ≠ d → t.slot e = s.slot e) ∧
        t = { s with
          slots := t.slots, status := { s.status with busy := false }, seq := { s.seq with phase := .idle } }

/-- R103 (and R104, R105): ENC.PORT: issue and argument check, the TSWRITE step, the wait, and the ENTWAIT step for each
answer. What its issue leaves in `fb` and `k` is the model's reading of R37: notes/assumptions/11. -/
def Obligations.EncPortCommand : Prop :=
  ∀ d : SlotId,
    (∀ w : Word, decodeWord w = .ok (.encPort d) ↔ w = (0#16 ++ 0#8 ++ 0#2 ++ slotBits d ++ 0x1#4 : Word)) ∧
    IssuedInto (.encPort d) (fun s => s.cfg.entPresent = true) .tsWrite false ∧
    RefusedWithoutEnt (.encPort d) ∧
    (∀ s : State, s.status.busy = true → s.seq.phase = .tsWrite →
      ∃ t, exec (.encPort d) s = .next t ∧
        (∀ k : Fin 16, k.val < 6 → (t.slot d)[k] = .written (tsByte s.seq.ts k.val)) ∧
        (∀ k : Fin 16, 6 ≤ k.val → (t.slot d)[k] = (s.slot d)[k]) ∧
        (∀ e, e ≠ d → t.slot e = s.slot e) ∧
        t = { s with slots := t.slots, seq := { s.seq with phase := .entWait, k := 6 } }) ∧
    (∀ s : State, s.status.busy = true → s.seq.phase = .entWait → s.entAnswer = none →
      exec (.encPort d) s = .next s) ∧
    (∀ (s : State) (a : EntAnswer), s.status.busy = true → s.seq.phase = .entWait → s.entAnswer = some a →
      ∃ t, exec (.encPort d) s = .next t ∧
        (t.slot d)[s.seq.k] = .written (match a with | .byte b => b | .fail => 0x00) ∧
        (∀ k : Fin 16, k ≠ s.seq.k → (t.slot d)[k] = (s.slot d)[k]) ∧
        (∀ e, e ≠ d → t.slot e = s.slot e) ∧
        t = { s with
          slots := t.slots, entAnswer := none,
          status := { s.status with
            busy := decide (s.seq.k ≠ 15), degraded := s.status.degraded || decide (a = .fail) },
          seq := if s.seq.k = 15 then { s.seq with phase := .idle } else { s.seq with k := s.seq.k + 1 } })

/-- R108 (and R172, R173): ENC.BULK: issue and argument check, the wait, the success of ten bytes, the fallback of every
other answer, which stores nothing, and the steps of ENC.PORT after it. What its issue leaves in `fb` and
`k` beyond what R90 and R108 say is the model's reading of R37: notes/assumptions/11. -/
def Obligations.EncBulkCommand : Prop :=
  ∀ d : SlotId,
    (∀ w : Word, decodeWord w = .ok (.encBulk d) ↔ w = (0#16 ++ 0#8 ++ 0#2 ++ slotBits d ++ 0x4#4 : Word)) ∧
    IssuedInto (.encBulk d) (fun s => s.cfg.entPresent = true ∧ s.cfg.bulkPresent = true) .bulkWait false ∧
    IssuedInto (.encBulk d) (fun s => s.cfg.entPresent = true ∧ s.cfg.bulkPresent = false) .tsWrite true ∧
    RefusedWithoutEnt (.encBulk d) ∧
    (∀ s : State, s.status.busy = true → s.seq.phase = .bulkWait → s.bulkAnswer = none →
      exec (.encBulk d) s = .next s) ∧
    (∀ (s : State) (b : Vector Byte 10),
      s.status.busy = true → s.seq.phase = .bulkWait → s.bulkAnswer = some (.got 10 b) →
      ∃ t, exec (.encBulk d) s = .next t ∧
        (∀ k : Fin 16, k.val < 6 → (t.slot d)[k] = .written (tsByte s.seq.ts k.val)) ∧
        (∀ (k : Fin 16) (h : 6 ≤ k.val), (t.slot d)[k] = .written (b[k.val - 6]'(by omega))) ∧
        (∀ e, e ≠ d → t.slot e = s.slot e) ∧
        t = { s with
          slots := t.slots, bulkAnswer := none,
          status := { s.status with busy := false }, seq := { s.seq with phase := .idle } }) ∧
    (∀ (s : State) (a : BulkAnswer), s.status.busy = true → s.seq.phase = .bulkWait → s.bulkAnswer = some a →
      (∀ b, a ≠ .got 10 b) →
      exec (.encBulk d) s = .next { s with
        bulkAnswer := none, status := { s.status with fallback := true },
        seq := { s.seq with phase := .tsWrite, fb := true } }) ∧
    (∀ s : State, s.status.busy = true → (s.seq.phase = .tsWrite ∨ s.seq.phase = .entWait) →
      exec (.encBulk d) s = exec (.encPort d) s)

/-- R109: in its fallback ENC.BULK takes exactly the steps of ENC.PORT; each answers a next state, with FALLBACK and all
but the destination slot kept. -/
def Obligations.FallbackIsEncPort : Prop :=
  ∀ (d : SlotId) (s : State), s.status.busy = true → (s.seq.phase = .tsWrite ∨ s.seq.phase = .entWait) →
    exec (.encBulk d) s = exec (.encPort d) s ∧
      ∃ t, exec (.encBulk d) s = .next t ∧ (∀ e, e ≠ d → t.slot e = s.slot e) ∧ t.status.fallback = s.status.fallback ∧
        t.ts = s.ts ∧ t.ctx = s.ctx ∧ t.result = s.result ∧ t.str = s.str ∧ t.cfg = s.cfg

/-- R134 (with R130, R131, R133): RENDER. Unwritten bytes enter with their free values, the model's choice:
notes/assumptions/1 and 2. What its issue leaves in `fb` and `k` is the model's reading of R37: notes/assumptions/11. -/
def Obligations.RenderCommand : Prop :=
  ∀ d : SlotId,
    (∀ w : Word, decodeWord w = .ok (.render d) ↔ w = (0#16 ++ 0#8 ++ 0#2 ++ slotBits d ++ 0x5#4 : Word)) ∧
    IssuedInto (.render d) (fun _ => True) .exec false ∧
    ∀ s : State, s.status.busy = true → s.seq.phase = .exec →
      ∃ t, exec (.render d) s = .next t ∧
        (∀ i : Fin 27, i.val < 26 → t.str[i] =
          .written alphabet[((0#2 ++ val128 (s.slotBytes d) : BitVec 130).extractLsb' (125 - 5 * i.val) 5).toFin]) ∧
        t.str[26] = .written 0x00 ∧
        t = { s with
          str := t.str, status := { s.status with busy := false }, seq := { s.seq with phase := .idle } }

/-- R139: EXTRACT. Unwritten bytes enter with their free values, the model's choice: notes/assumptions/1 and 2. What its
issue leaves in `fb` and `k` is the model's reading of R37: notes/assumptions/11. -/
def Obligations.ExtractCommand : Prop :=
  ∀ d : SlotId,
    (∀ w : Word, decodeWord w = .ok (.extract d) ↔ w = (0#16 ++ 0#8 ++ 0#2 ++ slotBits d ++ 0x6#4 : Word)) ∧
    IssuedInto (.extract d) (fun _ => True) .exec false ∧
    ∀ s : State, s.status.busy = true → s.seq.phase = .exec →
      ∃ t, exec (.extract d) s = .next t ∧
        t.result = .ofVal (0#16 ++ ts48 (s.slotBytes d)) ∧ t.result.val = 0#16 ++ ts48 (s.slotBytes d) ∧
        t.result.val.toNat < 2 ^ 48 ∧
        t = { s with
          result := t.result, status := { s.status with busy := false }, seq := { s.seq with phase := .idle } }

/-- R150: CMP, by the least index at which the slots differ. Unwritten bytes enter with their free values, the model's
choice: notes/assumptions/1 and 2. What its issue leaves in `fb` and `k` is the model's reading of R37:
notes/assumptions/11. -/
def Obligations.CmpCommand : Prop :=
  ∀ a b : SlotId,
    (∀ w : Word, decodeWord w = .ok (.cmp a b) ↔ w = (0#16 ++ 0#8 ++ slotBits b ++ slotBits a ++ 0x7#4 : Word)) ∧
    IssuedInto (.cmp a b) (fun _ => True) .exec false ∧
    ∀ s : State, s.status.busy = true → s.seq.phase = .exec →
      ∃ t, exec (.cmp a b) s = .next t ∧
        (s.slotBytes a = s.slotBytes b → t.result = .ofVal 0) ∧
        (∀ j : Fin 16, (∀ i : Fin 16, i < j → (s.slotBytes a)[i] = (s.slotBytes b)[i]) →
          ((s.slotBytes a)[j].toNat < (s.slotBytes b)[j].toNat → t.result = .ofVal 0xFFFF_FFFF_FFFF_FFFF) ∧
          ((s.slotBytes b)[j].toNat < (s.slotBytes a)[j].toNat → t.result = .ofVal 0x0000_0000_0000_0001)) ∧
        t = { s with
          result := t.result, status := { s.status with busy := false }, seq := { s.seq with phase := .idle } }

/-- R151: EQ. Unwritten bytes enter with their free values, the model's choice: notes/assumptions/1 and 2. What its issue
leaves in `fb` and `k` is the model's reading of R37: notes/assumptions/11. -/
def Obligations.EqCommand : Prop :=
  ∀ a b : SlotId,
    (∀ w : Word, decodeWord w = .ok (.eq a b) ↔ w = (0#16 ++ 0#8 ++ slotBits b ++ slotBits a ++ 0x8#4 : Word)) ∧
    IssuedInto (.eq a b) (fun _ => True) .exec false ∧
    ∀ s : State, s.status.busy = true → s.seq.phase = .exec →
      ∃ t, exec (.eq a b) s = .next t ∧
        ((∀ j : Fin 16, (s.slotBytes a)[j] = (s.slotBytes b)[j]) → t.result = .ofVal 1) ∧
        ((∃ j : Fin 16, (s.slotBytes a)[j] ≠ (s.slotBytes b)[j]) → t.result = .ofVal 0) ∧
        t = { s with
          result := t.result, status := { s.status with busy := false }, seq := { s.seq with phase := .idle } }

/-- R152: COPY, each byte with its written status; also with source and destination the same. What its issue leaves in `fb`
and `k` is the model's reading of R37: notes/assumptions/11. -/
def Obligations.CopyCommand : Prop :=
  ∀ a b : SlotId,
    (∀ w : Word, decodeWord w = .ok (.copy a b) ↔ w = (0#16 ++ 0#8 ++ slotBits b ++ slotBits a ++ 0x9#4 : Word)) ∧
    IssuedInto (.copy a b) (fun _ => True) .exec false ∧
    ∀ s : State, s.status.busy = true → s.seq.phase = .exec →
      ∃ t, exec (.copy a b) s = .next t ∧
        t.slot b = s.slot a ∧ (∀ e, e ≠ b → t.slot e = s.slot e) ∧
        t = { s with
          slots := t.slots, status := { s.status with busy := false }, seq := { s.seq with phase := .idle } }

/-! ## Who writes what, over all steps -/

/-- R34: OVR is set exactly by a refused write, and stays until STATUS bit 5 is written or a reset comes. -/
def Obligations.OvrIsSticky : Prop :=
  ∀ s t : State, step s = .next t →
    (t.status.ovr = true ↔
      s.status.busy = true ∧ (∃ r v, s.hostWrites r v ∧
        (r = .cmd ∨ r = .tsLo ∨ r = .tsHi ∨ r = .ctxLo ∨ r = .ctxHi ∨ ∃ d j, r = .slotWord d j)) ∨
      s.status.ovr = true ∧ ¬ (∃ v, s.hostWrites .status v ∧ v.getLsbD 5 = true) ∧ ¬ s.resetComes)

/-- R31: ERR is written by every CMD write made while BUSY = 0, with the outcome of that write, and otherwise only by
reset. -/
def Obligations.ErrIsTheOutcomeOfTheLastCmdWrite : Prop :=
  ∀ s t : State, step s = .next t →
    (∀ w i, s.hostWrites .cmd w → s.status.busy = false → decodeWord w = .ok i →
      t.status.err = if Instr.singleStep i = false ∧ s.cfg.entPresent = false then .invalidArg else .ok) ∧
    (∀ w e, s.hostWrites .cmd w → s.status.busy = false → decodeWord w = .error e → t.status.err = .illegalCmd) ∧
    (s.resetComes → t.status.err = .ok) ∧
    (¬ ((∃ w, s.hostWrites .cmd w) ∧ s.status.busy = false) → ¬ s.resetComes → t.status.err = s.status.err)

/-- R32: DEGRADED is cleared by a CMD write made while BUSY = 0, set by a failed entropy answer that a command takes,
and otherwise kept (reset clears it). -/
def Obligations.DegradedMarksAFailedByte : Prop :=
  ∀ s t : State, step s = .next t →
    (((∃ w, s.hostWrites .cmd w) ∧ s.status.busy = false) → t.status.degraded = false) ∧
    (s.resetComes → t.status.degraded = false) ∧
    (¬ ((∃ w, s.hostWrites .cmd w) ∧ s.status.busy = false) → ¬ s.resetComes →
      (t.status.degraded = true ↔
        s.status.degraded = true ∨
        ∃ i, s.coreRuns i ∧ Instr.singleStep i = false ∧ s.seq.phase = .entWait ∧ s.entAnswer = some .fail))

/-- R33: FALLBACK is set by an ENC.BULK that falls back, at issue or on its bulk answer, cleared by every other CMD write
made while BUSY = 0, and otherwise kept (reset clears it). It is no error: the step that sets it keeps ERR. -/
def Obligations.FallbackMarksABulkThatFellBack : Prop :=
  ∀ s t : State, step s = .next t →
    (∀ w, s.hostWrites .cmd w → s.status.busy = false →
      (t.status.fallback = true ↔
        (∃ d, decodeWord w = .ok (.encBulk d)) ∧ s.cfg.entPresent = true ∧ s.cfg.bulkPresent = false)) ∧
    (s.resetComes → t.status.fallback = false) ∧
    (¬ ((∃ w, s.hostWrites .cmd w) ∧ s.status.busy = false) → ¬ s.resetComes →
      (t.status.fallback = true ↔
        s.status.fallback = true ∨
        ∃ d a, s.coreRuns (.encBulk d) ∧ s.seq.phase = .bulkWait ∧ s.bulkAnswer = some a ∧ ∀ b, a ≠ .got 10 b) ∧
      t.status.err = s.status.err)

/-- R26: only EXTRACT, CMP and EQ write RESULT, each its own result; no other command, no host access and no port answer
changes it (reset makes it unwritten). -/
def Obligations.ResultWrittenByThreeCommands : Prop :=
  ∀ s t : State, step s = .next t → t.result ≠ s.result →
    s.resetComes ∨ ∃ d e,
      s.coreRuns (.extract d) ∧ t.result = .ofVal (0#16 ++ ts48 (s.slotBytes d)) ∨
      s.coreRuns (.cmp d e) ∧ t.result = .ofVal (cmpResult (s.slotBytes d) (s.slotBytes e)) ∨
      s.coreRuns (.eq d e) ∧ t.result = .ofVal (eqResult (s.slotBytes d) (s.slotBytes e))

/-- R27: only RENDER writes STR, and it writes all 27 bytes, the string of its slot (reset makes them unwritten). -/
def Obligations.StrWrittenByRenderWhole : Prop :=
  ∀ s t : State, step s = .next t → t.str ≠ s.str →
    s.resetComes ∨ (∃ d, s.coreRuns (.render d) ∧ t.str = renderStr (val128 (s.slotBytes d))) ∧
      ∀ i : Fin 27, (t.str[i]).isWritten = true

/-- R23, R101: a slot changes only by a host write of one of its words while BUSY = 0, by an encode into it, by a COPY
into it, or by reset. -/
def Obligations.SlotsWrittenByTheirWriters : Prop :=
  ∀ (s t : State) (d : SlotId), step s = .next t → t.slot d ≠ s.slot d →
    s.resetComes ∨
    (s.status.busy = false ∧ ∃ j v, s.hostWrites (.slotWord d j) v) ∨
    ∃ v e, s.coreRuns (.encPort d) ∨ s.coreRuns (.encConst d v) ∨ s.coreRuns (.encSkip d) ∨ s.coreRuns (.encBulk d) ∨
      s.coreRuns (.copy e d)

/-- R24, R25, R101: TS and CTX change only by a host write of one of their halves while BUSY = 0, or by reset. -/
def Obligations.TsAndCtxWrittenByHostOnly : Prop :=
  ∀ s t : State, step s = .next t →
    (t.ts ≠ s.ts → s.resetComes ∨
      s.status.busy = false ∧ ∃ v, s.hostWrites .tsLo v ∨ s.hostWrites .tsHi v) ∧
    (t.ctx ≠ s.ctx → s.resetComes ∨
      s.status.busy = false ∧ ∃ v, s.hostWrites .ctxLo v ∨ s.hostWrites .ctxHi v)

/-- R35: CFG reads the two tie-offs in bits 0 and 1 and 0 above them, holds them from reset onward and never changes, a
host write of it included. -/
def Obligations.CfgIsTheTieOffs : Prop :=
  (∀ s : State, s.cfg.word.getLsbD 0 = s.cfg.entPresent ∧ s.cfg.word.getLsbD 1 = s.cfg.bulkPresent ∧
    s.cfg.word.extractLsb' 2 30 = 0 ∧ s.regValue .cfg = s.cfg.word) ∧
  State.reset.cfg.entPresent = Config.entPresent ∧ State.reset.cfg.bulkPresent = Config.bulkPresent ∧
  (∀ s t : State, step s = .next t → t.cfg = s.cfg)

/-- R166, R171, R221: an answer with no request outstanding is ignored, and so is one to a request that a reset abandoned,
also while another is outstanding; one to the outstanding request is held for CORE, and nothing else changes. A request is
outstanding only in ENTWAIT or BULKWAIT, and carries the latched context. That the request ends at its first answer is the
model's reading (notes/assumptions/6), and that an answer names its request by the resets before it is the model's choice
(notes/assumptions/21). -/
def Obligations.AnswersWithoutRequestAreIgnored : Prop :=
  ∀ (s : State) (rest : List Input),
    (∀ epoch a, s.inputs = .ent epoch a :: rest →
      (epoch ≠ s.resets ∨ s.entRequest = none → step s = .next { s with inputs := rest }) ∧
      (epoch = s.resets → s.entRequest ≠ none → step s = .next { s with inputs := rest, entAnswer := some a })) ∧
    (∀ epoch a, s.inputs = .bulk epoch a :: rest →
      (epoch ≠ s.resets ∨ s.bulkRequest = none → step s = .next { s with inputs := rest }) ∧
      (epoch = s.resets → s.bulkRequest ≠ none → step s = .next { s with inputs := rest, bulkAnswer := some a })) ∧
    (∀ c, s.entRequest = some c ↔ s.seq.phase = .entWait ∧ s.entAnswer = none ∧ c = s.seq.ctx) ∧
    (∀ n, s.bulkRequest = some n ↔ s.seq.phase = .bulkWait ∧ s.bulkAnswer = none ∧ n = 10)

/-! ## Reset and the machine as a whole -/

/-- R220, R221: what the reset input leaves, also in the middle of a command. That the inputs stay is the model's choice
(notes/assumptions/16), and so is its count of the resets (notes/assumptions/21). -/
def Obligations.ResetLeavesDataUnwritten : Prop :=
  ∀ (s : State) (rest : List Input), s.inputs = .reset :: rest →
    ∃ t, step s = .next t ∧
      t.status.word = 0 ∧ t.seq.phase = .idle ∧ t.cfg = s.cfg ∧
      (∀ (d : SlotId) (k : Fin 16), ((t.slot d)[k]).isWritten = false) ∧
      (t.ts.lo.isWritten = false ∧ t.ts.hi.isWritten = false) ∧
      (t.ctx.lo.isWritten = false ∧ t.ctx.hi.isWritten = false) ∧
      (t.result.lo.isWritten = false ∧ t.result.hi.isWritten = false) ∧
      (∀ i : Fin 27, (t.str[i]).isWritten = false) ∧
      t.entAnswer = none ∧ t.bulkAnswer = none ∧ t.resets = s.resets + 1 ∧ t.inputs = rest

/-- R220, R222: the machine right after reset is idle with STATUS 0, and every turn of CORE leaves it so. That no input is
waiting then is the model's choice: notes/assumptions/8. -/
def Obligations.ResetStateIsIdle : Prop :=
  State.reset.status.word = 0 ∧ State.reset.seq.phase = .idle ∧ State.reset.Inv ∧
  step State.reset = .next State.reset

/-- The invariant of the machine is kept by every step from every state that has it. Two of its parts are the model's
reading: that the latched `op` and `fb` outlive completion (`fallback_of_bulk`, `degraded_of_port`: notes/assumptions/11),
and where an answer stands until CORE takes it (`ent_answer`, `bulk_answer`: notes/assumptions/6). -/
def Obligations.EveryStepKeepsInv : Prop :=
  ∀ s t : State, s.Inv → step s = .next t → t.Inv

/-- In a state that has the invariant a step always answers a next state: the block has no stop (R190, R198). Three points
are the model's own: that the use of unwritten data, which R38 and U7 call a model fault, goes on (notes/assumptions/2), that
its faults stand for states R37 rules out (notes/assumptions/10), and that a bus error is an answer (notes/assumptions/13). -/
def Obligations.NoStepStops : Prop := ∀ s : State, s.Inv → ∃ t, step s = .next t

/-- R169 (and R221): while its source never answers and no reset comes, a command that waits for an entropy byte stays
where it is, BUSY stays 1, and its slot keeps what it holds, whatever the host does, and whatever late answers to requests
of earlier epochs arrive. That an answer names its request by the resets before it is the model's choice:
notes/assumptions/21. -/
def Obligations.UnansweredCommandHangs : Prop :=
  ∀ (n : Nat) (s : State) (d : SlotId),
    s.status.busy = true → s.seq.phase = .entWait → s.entAnswer = none →
    (s.seq.running = .ok (.encPort d) ∨ s.seq.running = .ok (.encBulk d)) →
    (∀ e ∈ s.inputs, e ≠ .reset ∧ ∀ a, e ≠ .ent s.resets a) →
    ∃ t, Host.Core.run core n s = .next t ∧
      t.status.busy = true ∧ t.seq = s.seq ∧ t.entAnswer = none ∧ t.slots = s.slots

/-- R103, R104, R110: an ENC.PORT whose ten requests are answered: the i-th answer is stored in byte 6 + i, the timestamp
in bytes 0..5, DEGRADED tells whether some answer was `Fail`, and the command has completed. Each answer names the present
epoch, the model's choice: notes/assumptions/21. -/
def Obligations.EncPortRun : Prop :=
  ∀ (s : State) (d : SlotId) (a : Vector EntAnswer 10) (rest : List Input),
    s.status.busy = false → s.cfg.entPresent = true → s.entAnswer = none →
    s.inputs = cmdInput (.encPort d) :: .core :: (a.toList.flatMap fun x => [.ent s.resets x, .core]) ++ rest →
    ∃ t, Host.Core.run core 22 s = .next t ∧
      (∀ k : Fin 16, k.val < 6 → (t.slot d)[k] = .written (tsByte s.ts.val k.val)) ∧
      (∀ i : Fin 10, (t.slot d)[6 + i.val]'(by omega) =
        .written (match a[i] with | .byte b => b | .fail => 0x00)) ∧
      (∀ e, e ≠ d → t.slot e = s.slot e) ∧
      t.status = { busy := false, err := .ok, degraded := decide (EntAnswer.fail ∈ a.toList), fallback := false,
                   ovr := s.status.ovr } ∧
      t.seq.phase = .idle ∧ t.ts = s.ts ∧ t.ctx = s.ctx ∧ t.result = s.result ∧ t.str = s.str ∧ t.inputs = rest

/-- R108, R109: an ENC.BULK that gets a failed bulk answer and then ten entropy answers leaves what ENC.PORT would leave
with the same answers, but FALLBACK = 1. Each answer names the present epoch, the model's choice: notes/assumptions/21. -/
def Obligations.EncBulkFallbackRun : Prop :=
  ∀ (s : State) (d : SlotId) (f : BulkAnswer) (a : Vector EntAnswer 10) (rest : List Input),
    s.status.busy = false → s.cfg.entPresent = true → s.cfg.bulkPresent = true →
    s.entAnswer = none → s.bulkAnswer = none → (∀ b, f ≠ .got 10 b) →
    s.inputs = cmdInput (.encBulk d) :: .bulk s.resets f :: .core :: .core ::
      (a.toList.flatMap fun x => [.ent s.resets x, .core]) ++ rest →
    ∃ t, Host.Core.run core 24 s = .next t ∧
      (∀ k : Fin 16, k.val < 6 → (t.slot d)[k] = .written (tsByte s.ts.val k.val)) ∧
      (∀ i : Fin 10, (t.slot d)[6 + i.val]'(by omega) =
        .written (match a[i] with | .byte b => b | .fail => 0x00)) ∧
      (∀ e, e ≠ d → t.slot e = s.slot e) ∧
      t.status = { busy := false, err := .ok, degraded := decide (EntAnswer.fail ∈ a.toList), fallback := true,
                   ovr := s.status.ovr } ∧
      t.seq.phase = .idle ∧ t.ts = s.ts ∧ t.ctx = s.ctx ∧ t.result = s.result ∧ t.str = s.str ∧ t.inputs = rest

/-- R38, R223, U7: what a command that completes in one step does depends on written data only, when the slots it reads
are written, and so does the issue of a command that uses a port, when TS and CTX are: unwritten data elsewhere, whatever
their values, change nothing. -/
def Obligations.UnwrittenDataElsewhereDoNotMatter : Prop :=
  ∀ (i : Instr) (s s' : State), s.AgreeOnWritten s' →
    (Instr.singleStep i = true → s.status.busy = true → s.seq.phase = .exec → s.slotOperandsWritten i = true →
      ∃ t t', exec i s = .next t ∧ exec i s' = .next t' ∧ t.AgreeOnWritten t') ∧
    (Instr.singleStep i = false → s.status.busy = false → s.registerOperandsWritten i = true →
      ∃ t t', exec i s = .next t ∧ exec i s' = .next t' ∧ t.AgreeOnWritten t')

/-- R62, R231: once a STATUS read has returned BUSY = 0, no command runs until the host's next access: every step keeps
this, and a host program that has ended leaves the block idle. -/
def Obligations.IdleAsReadUntilTheNextAccess : Prop :=
  State.reset.IdleAsRead ∧
  (∀ s t : State, s.IdleAsRead → step s = .next t → t.IdleAsRead) ∧
  (∀ run : List State, (∀ t ∈ run, t.IdleAsRead) → ProgramEnded run →
    ∃ t, run.getLast? = some t ∧ t.status.busy = false ∧ t.hostDone = true)

/-! ## The identifier, its order and its string -/

/-- R100: the timestamp field of every encode is TS modulo 2^48, big-endian; the bits 63:48 are discarded. -/
def Obligations.TimestampFieldIsTsMod2Pow48 : Prop :=
  ∀ (t : Dword) (b : Slot) (e : Vector Byte 10),
    (Vector.ofFn fun i : Fin 6 => tsByte t i.val) =
      #v[t.extractLsb' 40 8, t.extractLsb' 32 8, t.extractLsb' 24 8, t.extractLsb' 16 8, t.extractLsb' 8 8,
         t.extractLsb' 0 8] ∧
    (ts48 (Slot.withTs t b).bytes).toNat = t.toNat % 2 ^ 48 ∧
    (ts48 (Slot.ofParts t e).bytes).toNat = t.toNat % 2 ^ 48

/-- R112: EXTRACT after ENC.CONST gives back the timestamp modulo 2^48. -/
def Obligations.EncodeThenExtractRoundTrip : Prop :=
  ∀ (s : State) (d : SlotId) (v : Byte) (rest : List Input), s.status.busy = false →
    s.inputs = cmdInput (.encConst d v) :: .core :: cmdInput (.extract d) :: .core :: rest →
    ∃ t, Host.Core.run core 4 s = .next t ∧ t.result.val.toNat = s.ts.val.toNat % 2 ^ 48 ∧ t.status.busy = false ∧
      t.status.err = .ok

/-- R132: the schedule of 26 fixed extractions is the grouping of R131. -/
def Obligations.ScheduleIsTheGrouping : Prop :=
  ∀ (b : Vector Byte 16) (i : Fin 26), (schedule[i]).extract b = (group (val128 b) i.val).setWidth 8

/-- R135: what RENDER stores: 26 members of the alphabet, the first of them `0`..`7`; distinct identifiers give distinct
strings; timestamp 0 renders as ten `0`, timestamp 0xFFFF_FFFF_FFFF as `7ZZZZZZZZZ`. -/
def Obligations.PropertiesOfRender : Prop :=
  (∀ (v : Ident) (i : Nat), i < 26 → renderByte v i ∈ alphabet.toList) ∧
  (∀ v : Ident, 0x30 ≤ (renderByte v 0).toNat ∧ (renderByte v 0).toNat ≤ 0x37) ∧
  (∀ v v' : Ident, (∀ i, i < 26 → renderByte v i = renderByte v' i) → v = v') ∧
  (∀ v : Ident, v.extractLsb' 80 48 = 0 → ∀ i, i < 10 → renderByte v i = 0x30) ∧
  (∀ v : Ident, v.extractLsb' 80 48 = 0xFFFF_FFFF_FFFF →
    renderByte v 0 = 0x37 ∧ ∀ i, 1 ≤ i → i < 10 → renderByte v i = 0x5A)

/-- R136 (and R113): characters 0..9 depend on the timestamp field only, characters 10..25 on the entropy field only. -/
def Obligations.FieldPartitionOfTheString : Prop :=
  ∀ b c : Vector Byte 16,
    (ts48 b = ts48 c → ∀ i, i < 10 → renderByte (val128 b) i = renderByte (val128 c) i) ∧
    (ent80 b = ent80 c → ∀ i, 10 ≤ i → i < 26 → renderByte (val128 b) i = renderByte (val128 c) i)

/-- R137: the strings sort, byte by byte, as the identifiers do. -/
def Obligations.StringsSortAsIdentifiers : Prop :=
  ∀ v w : Ident,
    v < w ↔ ∃ j, j < 26 ∧ (∀ i, i < j → renderByte v i = renderByte w i) ∧ renderByte v j < renderByte w j

/-- R150: CMP is the unsigned order of the 128-bit values. -/
def Obligations.CmpIsTheOrderOfIdentifiers : Prop :=
  ∀ b c : Vector Byte 16,
    cmpResult b c =
      if val128 b < val128 c then 0xFFFF_FFFF_FFFF_FFFF else if val128 b = val128 c then 0 else 1

/-- R153: the laws of CMP and EQ, over all identifiers. -/
def Obligations.OrderLaws : Prop :=
  ∀ a b c : Vector Byte 16,
    (cmpResult a b = 0 ↔ eqResult a b = 1) ∧
    (cmpResult a b = 0xFFFF_FFFF_FFFF_FFFF ↔ cmpResult b a = 1) ∧
    (cmpResult a b = 0xFFFF_FFFF_FFFF_FFFF → cmpResult b c = 0xFFFF_FFFF_FFFF_FFFF →
      cmpResult a c = 0xFFFF_FFFF_FFFF_FFFF) ∧
    (cmpResult a b = 0xFFFF_FFFF_FFFF_FFFF ∨ cmpResult a b = 0 ∨ cmpResult a b = 1) ∧
    eqResult a a = 1 ∧ eqResult a b = eqResult b a ∧
    (eqResult a b = 1 → eqResult b c = 1 → eqResult a c = 1)

/-- R154: the timestamp dominates the order, and the entropy decides among equal timestamps. -/
def Obligations.TimestampDominatesTheOrder : Prop :=
  ∀ b c : Vector Byte 16,
    (ts48 b < ts48 c → cmpResult b c = 0xFFFF_FFFF_FFFF_FFFF) ∧
    (ts48 b = ts48 c → cmpResult b c =
      if ent80 b < ent80 c then 0xFFFF_FFFF_FFFF_FFFF else if ent80 b = ent80 c then 0 else 1)

/-! ## Late answers -/

/-- R221 (with R166, R171): an answer, on either port, to a request made before a reset is ignored whenever it arrives
after it, also while a new request is outstanding. Every reset begins a new epoch and no other step does, so the late answer
names an epoch that is over. That an answer names its request so is the model's choice: notes/assumptions/21. -/
def Obligations.LateAnswersAreIgnored : Prop :=
  (∀ s t : State, step s = .next t →
    (s.resetComes → t.resets = s.resets + 1) ∧ (¬ s.resetComes → t.resets = s.resets)) ∧
  ∀ (n : Nat) (s u t : State) (epoch : Nat) (rest : List Input),
    s.resetComes → step s = .next u → Host.Core.run core n u = .next t → epoch ≤ s.resets →
    (∀ a : EntAnswer, t.inputs = .ent epoch a :: rest → step t = .next { t with inputs := rest }) ∧
    (∀ a : BulkAnswer, t.inputs = .bulk epoch a :: rest → step t = .next { t with inputs := rest })
end

