-- ==== Sys2Proof/Laws/State.lean ====
section
/-! SUPPORT. What each named update of the state leaves in each field: one lemma a field and update, true by rfl. -/

namespace Sys2Proof.Machine

@[simp] theorem State.setSlot_slots (d : SlotId) (b : Slot) (s : State) : (State.setSlot d b s).slots = s.slots.set d b := rfl
@[simp] theorem State.setSlot_ts (d : SlotId) (b : Slot) (s : State) : (State.setSlot d b s).ts = s.ts := rfl
@[simp] theorem State.setSlot_ctx (d : SlotId) (b : Slot) (s : State) : (State.setSlot d b s).ctx = s.ctx := rfl
@[simp] theorem State.setSlot_result (d : SlotId) (b : Slot) (s : State) : (State.setSlot d b s).result = s.result := rfl
@[simp] theorem State.setSlot_str (d : SlotId) (b : Slot) (s : State) : (State.setSlot d b s).str = s.str := rfl
@[simp] theorem State.setSlot_status (d : SlotId) (b : Slot) (s : State) : (State.setSlot d b s).status = s.status := rfl
@[simp] theorem State.setSlot_cfg (d : SlotId) (b : Slot) (s : State) : (State.setSlot d b s).cfg = s.cfg := rfl
@[simp] theorem State.setSlot_seq (d : SlotId) (b : Slot) (s : State) : (State.setSlot d b s).seq = s.seq := rfl
@[simp] theorem State.setSlot_entAnswer (d : SlotId) (b : Slot) (s : State) : (State.setSlot d b s).entAnswer = s.entAnswer := rfl
@[simp] theorem State.setSlot_bulkAnswer (d : SlotId) (b : Slot) (s : State) : (State.setSlot d b s).bulkAnswer = s.bulkAnswer := rfl
@[simp] theorem State.setSlot_response (d : SlotId) (b : Slot) (s : State) : (State.setSlot d b s).response = s.response := rfl
@[simp] theorem State.setSlot_inputs (d : SlotId) (b : Slot) (s : State) : (State.setSlot d b s).inputs = s.inputs := rfl
@[simp] theorem State.setSlot_draws (d : SlotId) (b : Slot) (s : State) : (State.setSlot d b s).draws = s.draws := rfl
@[simp] theorem State.setSlot_resets (d : SlotId) (b : Slot) (s : State) : (State.setSlot d b s).resets = s.resets := rfl

@[simp] theorem State.setSlotByte_slots (d : SlotId) (k : Fin 16) (v : Byte) (s : State) : (State.setSlotByte d k v s).slots = s.slots.set d ((s.slot d).set k (.written v)) := rfl
@[simp] theorem State.setSlotByte_ts (d : SlotId) (k : Fin 16) (v : Byte) (s : State) : (State.setSlotByte d k v s).ts = s.ts := rfl
@[simp] theorem State.setSlotByte_ctx (d : SlotId) (k : Fin 16) (v : Byte) (s : State) : (State.setSlotByte d k v s).ctx = s.ctx := rfl
@[simp] theorem State.setSlotByte_result (d : SlotId) (k : Fin 16) (v : Byte) (s : State) : (State.setSlotByte d k v s).result = s.result := rfl
@[simp] theorem State.setSlotByte_str (d : SlotId) (k : Fin 16) (v : Byte) (s : State) : (State.setSlotByte d k v s).str = s.str := rfl
@[simp] theorem State.setSlotByte_status (d : SlotId) (k : Fin 16) (v : Byte) (s : State) : (State.setSlotByte d k v s).status = s.status := rfl
@[simp] theorem State.setSlotByte_cfg (d : SlotId) (k : Fin 16) (v : Byte) (s : State) : (State.setSlotByte d k v s).cfg = s.cfg := rfl
@[simp] theorem State.setSlotByte_seq (d : SlotId) (k : Fin 16) (v : Byte) (s : State) : (State.setSlotByte d k v s).seq = s.seq := rfl
@[simp] theorem State.setSlotByte_entAnswer (d : SlotId) (k : Fin 16) (v : Byte) (s : State) : (State.setSlotByte d k v s).entAnswer = s.entAnswer := rfl
@[simp] theorem State.setSlotByte_bulkAnswer (d : SlotId) (k : Fin 16) (v : Byte) (s : State) : (State.setSlotByte d k v s).bulkAnswer = s.bulkAnswer := rfl
@[simp] theorem State.setSlotByte_response (d : SlotId) (k : Fin 16) (v : Byte) (s : State) : (State.setSlotByte d k v s).response = s.response := rfl
@[simp] theorem State.setSlotByte_inputs (d : SlotId) (k : Fin 16) (v : Byte) (s : State) : (State.setSlotByte d k v s).inputs = s.inputs := rfl
@[simp] theorem State.setSlotByte_draws (d : SlotId) (k : Fin 16) (v : Byte) (s : State) : (State.setSlotByte d k v s).draws = s.draws := rfl
@[simp] theorem State.setSlotByte_resets (d : SlotId) (k : Fin 16) (v : Byte) (s : State) : (State.setSlotByte d k v s).resets = s.resets := rfl

@[simp] theorem State.setResult_slots (v : Dword) (s : State) : (State.setResult v s).slots = s.slots := rfl
@[simp] theorem State.setResult_ts (v : Dword) (s : State) : (State.setResult v s).ts = s.ts := rfl
@[simp] theorem State.setResult_ctx (v : Dword) (s : State) : (State.setResult v s).ctx = s.ctx := rfl
@[simp] theorem State.setResult_result (v : Dword) (s : State) : (State.setResult v s).result = .ofVal v := rfl
@[simp] theorem State.setResult_str (v : Dword) (s : State) : (State.setResult v s).str = s.str := rfl
@[simp] theorem State.setResult_status (v : Dword) (s : State) : (State.setResult v s).status = s.status := rfl
@[simp] theorem State.setResult_cfg (v : Dword) (s : State) : (State.setResult v s).cfg = s.cfg := rfl
@[simp] theorem State.setResult_seq (v : Dword) (s : State) : (State.setResult v s).seq = s.seq := rfl
@[simp] theorem State.setResult_entAnswer (v : Dword) (s : State) : (State.setResult v s).entAnswer = s.entAnswer := rfl
@[simp] theorem State.setResult_bulkAnswer (v : Dword) (s : State) : (State.setResult v s).bulkAnswer = s.bulkAnswer := rfl
@[simp] theorem State.setResult_response (v : Dword) (s : State) : (State.setResult v s).response = s.response := rfl
@[simp] theorem State.setResult_inputs (v : Dword) (s : State) : (State.setResult v s).inputs = s.inputs := rfl
@[simp] theorem State.setResult_draws (v : Dword) (s : State) : (State.setResult v s).draws = s.draws := rfl
@[simp] theorem State.setResult_resets (v : Dword) (s : State) : (State.setResult v s).resets = s.resets := rfl

@[simp] theorem State.setStr_slots (b : Str) (s : State) : (State.setStr b s).slots = s.slots := rfl
@[simp] theorem State.setStr_ts (b : Str) (s : State) : (State.setStr b s).ts = s.ts := rfl
@[simp] theorem State.setStr_ctx (b : Str) (s : State) : (State.setStr b s).ctx = s.ctx := rfl
@[simp] theorem State.setStr_result (b : Str) (s : State) : (State.setStr b s).result = s.result := rfl
@[simp] theorem State.setStr_str (b : Str) (s : State) : (State.setStr b s).str = b := rfl
@[simp] theorem State.setStr_status (b : Str) (s : State) : (State.setStr b s).status = s.status := rfl
@[simp] theorem State.setStr_cfg (b : Str) (s : State) : (State.setStr b s).cfg = s.cfg := rfl
@[simp] theorem State.setStr_seq (b : Str) (s : State) : (State.setStr b s).seq = s.seq := rfl
@[simp] theorem State.setStr_entAnswer (b : Str) (s : State) : (State.setStr b s).entAnswer = s.entAnswer := rfl
@[simp] theorem State.setStr_bulkAnswer (b : Str) (s : State) : (State.setStr b s).bulkAnswer = s.bulkAnswer := rfl
@[simp] theorem State.setStr_response (b : Str) (s : State) : (State.setStr b s).response = s.response := rfl
@[simp] theorem State.setStr_inputs (b : Str) (s : State) : (State.setStr b s).inputs = s.inputs := rfl
@[simp] theorem State.setStr_draws (b : Str) (s : State) : (State.setStr b s).draws = s.draws := rfl
@[simp] theorem State.setStr_resets (b : Str) (s : State) : (State.setStr b s).resets = s.resets := rfl

@[simp] theorem State.accept_slots (i : Instr) (p : Phase) (s : State) : (State.accept i p s).slots = s.slots := rfl
@[simp] theorem State.accept_ts (i : Instr) (p : Phase) (s : State) : (State.accept i p s).ts = s.ts := rfl
@[simp] theorem State.accept_ctx (i : Instr) (p : Phase) (s : State) : (State.accept i p s).ctx = s.ctx := rfl
@[simp] theorem State.accept_result (i : Instr) (p : Phase) (s : State) : (State.accept i p s).result = s.result := rfl
@[simp] theorem State.accept_str (i : Instr) (p : Phase) (s : State) : (State.accept i p s).str = s.str := rfl
@[simp] theorem State.accept_status (i : Instr) (p : Phase) (s : State) : (State.accept i p s).status = s.status.accepted := rfl
@[simp] theorem State.accept_cfg (i : Instr) (p : Phase) (s : State) : (State.accept i p s).cfg = s.cfg := rfl
@[simp] theorem State.accept_seq (i : Instr) (p : Phase) (s : State) : (State.accept i p s).seq = s.seq.latch i p s.ts.val s.ctx.val := rfl
@[simp] theorem State.accept_entAnswer (i : Instr) (p : Phase) (s : State) : (State.accept i p s).entAnswer = s.entAnswer := rfl
@[simp] theorem State.accept_bulkAnswer (i : Instr) (p : Phase) (s : State) : (State.accept i p s).bulkAnswer = s.bulkAnswer := rfl
@[simp] theorem State.accept_response (i : Instr) (p : Phase) (s : State) : (State.accept i p s).response = s.response := rfl
@[simp] theorem State.accept_inputs (i : Instr) (p : Phase) (s : State) : (State.accept i p s).inputs = s.inputs := rfl
@[simp] theorem State.accept_draws (i : Instr) (p : Phase) (s : State) : (State.accept i p s).draws = s.draws := rfl
@[simp] theorem State.accept_resets (i : Instr) (p : Phase) (s : State) : (State.accept i p s).resets = s.resets := rfl

@[simp] theorem State.cmdError_slots (e : ErrCode) (s : State) : (State.cmdError e s).slots = s.slots := rfl
@[simp] theorem State.cmdError_ts (e : ErrCode) (s : State) : (State.cmdError e s).ts = s.ts := rfl
@[simp] theorem State.cmdError_ctx (e : ErrCode) (s : State) : (State.cmdError e s).ctx = s.ctx := rfl
@[simp] theorem State.cmdError_result (e : ErrCode) (s : State) : (State.cmdError e s).result = s.result := rfl
@[simp] theorem State.cmdError_str (e : ErrCode) (s : State) : (State.cmdError e s).str = s.str := rfl
@[simp] theorem State.cmdError_status (e : ErrCode) (s : State) : (State.cmdError e s).status = s.status.failed e := rfl
@[simp] theorem State.cmdError_cfg (e : ErrCode) (s : State) : (State.cmdError e s).cfg = s.cfg := rfl
@[simp] theorem State.cmdError_seq (e : ErrCode) (s : State) : (State.cmdError e s).seq = s.seq := rfl
@[simp] theorem State.cmdError_entAnswer (e : ErrCode) (s : State) : (State.cmdError e s).entAnswer = s.entAnswer := rfl
@[simp] theorem State.cmdError_bulkAnswer (e : ErrCode) (s : State) : (State.cmdError e s).bulkAnswer = s.bulkAnswer := rfl
@[simp] theorem State.cmdError_response (e : ErrCode) (s : State) : (State.cmdError e s).response = s.response := rfl
@[simp] theorem State.cmdError_inputs (e : ErrCode) (s : State) : (State.cmdError e s).inputs = s.inputs := rfl
@[simp] theorem State.cmdError_draws (e : ErrCode) (s : State) : (State.cmdError e s).draws = s.draws := rfl
@[simp] theorem State.cmdError_resets (e : ErrCode) (s : State) : (State.cmdError e s).resets = s.resets := rfl

@[simp] theorem State.fallBack_slots (s : State) : (s.fallBack).slots = s.slots := rfl
@[simp] theorem State.fallBack_ts (s : State) : (s.fallBack).ts = s.ts := rfl
@[simp] theorem State.fallBack_ctx (s : State) : (s.fallBack).ctx = s.ctx := rfl
@[simp] theorem State.fallBack_result (s : State) : (s.fallBack).result = s.result := rfl
@[simp] theorem State.fallBack_str (s : State) : (s.fallBack).str = s.str := rfl
@[simp] theorem State.fallBack_status (s : State) : (s.fallBack).status = s.status.fallBack := rfl
@[simp] theorem State.fallBack_cfg (s : State) : (s.fallBack).cfg = s.cfg := rfl
@[simp] theorem State.fallBack_seq (s : State) : (s.fallBack).seq = { s.seq with phase := .tsWrite, fb := true } := rfl
@[simp] theorem State.fallBack_entAnswer (s : State) : (s.fallBack).entAnswer = s.entAnswer := rfl
@[simp] theorem State.fallBack_bulkAnswer (s : State) : (s.fallBack).bulkAnswer = s.bulkAnswer := rfl
@[simp] theorem State.fallBack_response (s : State) : (s.fallBack).response = s.response := rfl
@[simp] theorem State.fallBack_inputs (s : State) : (s.fallBack).inputs = s.inputs := rfl
@[simp] theorem State.fallBack_draws (s : State) : (s.fallBack).draws = s.draws := rfl
@[simp] theorem State.fallBack_resets (s : State) : (s.fallBack).resets = s.resets := rfl

@[simp] theorem State.complete_slots (s : State) : (s.complete).slots = s.slots := rfl
@[simp] theorem State.complete_ts (s : State) : (s.complete).ts = s.ts := rfl
@[simp] theorem State.complete_ctx (s : State) : (s.complete).ctx = s.ctx := rfl
@[simp] theorem State.complete_result (s : State) : (s.complete).result = s.result := rfl
@[simp] theorem State.complete_str (s : State) : (s.complete).str = s.str := rfl
@[simp] theorem State.complete_status (s : State) : (s.complete).status = s.status.completed := rfl
@[simp] theorem State.complete_cfg (s : State) : (s.complete).cfg = s.cfg := rfl
@[simp] theorem State.complete_seq (s : State) : (s.complete).seq = { s.seq with phase := .idle } := rfl
@[simp] theorem State.complete_entAnswer (s : State) : (s.complete).entAnswer = s.entAnswer := rfl
@[simp] theorem State.complete_bulkAnswer (s : State) : (s.complete).bulkAnswer = s.bulkAnswer := rfl
@[simp] theorem State.complete_response (s : State) : (s.complete).response = s.response := rfl
@[simp] theorem State.complete_inputs (s : State) : (s.complete).inputs = s.inputs := rfl
@[simp] theorem State.complete_draws (s : State) : (s.complete).draws = s.draws := rfl
@[simp] theorem State.complete_resets (s : State) : (s.complete).resets = s.resets := rfl

@[simp] theorem State.respond_slots (r : Response) (s : State) : (State.respond r s).slots = s.slots := rfl
@[simp] theorem State.respond_ts (r : Response) (s : State) : (State.respond r s).ts = s.ts := rfl
@[simp] theorem State.respond_ctx (r : Response) (s : State) : (State.respond r s).ctx = s.ctx := rfl
@[simp] theorem State.respond_result (r : Response) (s : State) : (State.respond r s).result = s.result := rfl
@[simp] theorem State.respond_str (r : Response) (s : State) : (State.respond r s).str = s.str := rfl
@[simp] theorem State.respond_status (r : Response) (s : State) : (State.respond r s).status = s.status := rfl
@[simp] theorem State.respond_cfg (r : Response) (s : State) : (State.respond r s).cfg = s.cfg := rfl
@[simp] theorem State.respond_seq (r : Response) (s : State) : (State.respond r s).seq = s.seq := rfl
@[simp] theorem State.respond_entAnswer (r : Response) (s : State) : (State.respond r s).entAnswer = s.entAnswer := rfl
@[simp] theorem State.respond_bulkAnswer (r : Response) (s : State) : (State.respond r s).bulkAnswer = s.bulkAnswer := rfl
@[simp] theorem State.respond_response (r : Response) (s : State) : (State.respond r s).response = r := rfl
@[simp] theorem State.respond_inputs (r : Response) (s : State) : (State.respond r s).inputs = s.inputs := rfl
@[simp] theorem State.respond_draws (r : Response) (s : State) : (State.respond r s).draws = s.draws := rfl
@[simp] theorem State.respond_resets (r : Response) (s : State) : (State.respond r s).resets = s.resets := rfl

@[simp] theorem State.overrun_slots (s : State) : (s.overrun).slots = s.slots := rfl
@[simp] theorem State.overrun_ts (s : State) : (s.overrun).ts = s.ts := rfl
@[simp] theorem State.overrun_ctx (s : State) : (s.overrun).ctx = s.ctx := rfl
@[simp] theorem State.overrun_result (s : State) : (s.overrun).result = s.result := rfl
@[simp] theorem State.overrun_str (s : State) : (s.overrun).str = s.str := rfl
@[simp] theorem State.overrun_status (s : State) : (s.overrun).status = s.status.overrun := rfl
@[simp] theorem State.overrun_cfg (s : State) : (s.overrun).cfg = s.cfg := rfl
@[simp] theorem State.overrun_seq (s : State) : (s.overrun).seq = s.seq := rfl
@[simp] theorem State.overrun_entAnswer (s : State) : (s.overrun).entAnswer = s.entAnswer := rfl
@[simp] theorem State.overrun_bulkAnswer (s : State) : (s.overrun).bulkAnswer = s.bulkAnswer := rfl
@[simp] theorem State.overrun_response (s : State) : (s.overrun).response = .written := rfl
@[simp] theorem State.overrun_inputs (s : State) : (s.overrun).inputs = s.inputs := rfl
@[simp] theorem State.overrun_draws (s : State) : (s.overrun).draws = s.draws := rfl
@[simp] theorem State.overrun_resets (s : State) : (s.overrun).resets = s.resets := rfl

@[simp] theorem State.busError_slots (s : State) : (s.busError).slots = s.slots := rfl
@[simp] theorem State.busError_ts (s : State) : (s.busError).ts = s.ts := rfl
@[simp] theorem State.busError_ctx (s : State) : (s.busError).ctx = s.ctx := rfl
@[simp] theorem State.busError_result (s : State) : (s.busError).result = s.result := rfl
@[simp] theorem State.busError_str (s : State) : (s.busError).str = s.str := rfl
@[simp] theorem State.busError_status (s : State) : (s.busError).status = s.status := rfl
@[simp] theorem State.busError_cfg (s : State) : (s.busError).cfg = s.cfg := rfl
@[simp] theorem State.busError_seq (s : State) : (s.busError).seq = s.seq := rfl
@[simp] theorem State.busError_entAnswer (s : State) : (s.busError).entAnswer = s.entAnswer := rfl
@[simp] theorem State.busError_bulkAnswer (s : State) : (s.busError).bulkAnswer = s.bulkAnswer := rfl
@[simp] theorem State.busError_response (s : State) : (s.busError).response = .busError := rfl
@[simp] theorem State.busError_inputs (s : State) : (s.busError).inputs = s.inputs := rfl
@[simp] theorem State.busError_draws (s : State) : (s.busError).draws = s.draws := rfl
@[simp] theorem State.busError_resets (s : State) : (s.busError).resets = s.resets := rfl

@[simp] theorem Status.accepted_busy (t : Status) : t.accepted.busy = true := rfl
@[simp] theorem Status.accepted_err (t : Status) : t.accepted.err = .ok := rfl
@[simp] theorem Status.accepted_degraded (t : Status) : t.accepted.degraded = false := rfl
@[simp] theorem Status.accepted_fallback (t : Status) : t.accepted.fallback = false := rfl
@[simp] theorem Status.accepted_ovr (t : Status) : t.accepted.ovr = t.ovr := rfl
@[simp] theorem Status.failed_busy (e : ErrCode) (t : Status) : (t.failed e).busy = t.busy := rfl
@[simp] theorem Status.failed_err (e : ErrCode) (t : Status) : (t.failed e).err = e := rfl
@[simp] theorem Status.failed_degraded (e : ErrCode) (t : Status) : (t.failed e).degraded = false := rfl
@[simp] theorem Status.failed_fallback (e : ErrCode) (t : Status) : (t.failed e).fallback = false := rfl
@[simp] theorem Status.failed_ovr (e : ErrCode) (t : Status) : (t.failed e).ovr = t.ovr := rfl
@[simp] theorem Status.completed_busy (t : Status) : t.completed.busy = false := rfl
@[simp] theorem Status.completed_err (t : Status) : t.completed.err = t.err := rfl
@[simp] theorem Status.completed_degraded (t : Status) : t.completed.degraded = t.degraded := rfl
@[simp] theorem Status.completed_fallback (t : Status) : t.completed.fallback = t.fallback := rfl
@[simp] theorem Status.completed_ovr (t : Status) : t.completed.ovr = t.ovr := rfl
@[simp] theorem Status.degrade_busy (t : Status) : t.degrade.busy = t.busy := rfl
@[simp] theorem Status.degrade_err (t : Status) : t.degrade.err = t.err := rfl
@[simp] theorem Status.degrade_degraded (t : Status) : t.degrade.degraded = true := rfl
@[simp] theorem Status.degrade_fallback (t : Status) : t.degrade.fallback = t.fallback := rfl
@[simp] theorem Status.degrade_ovr (t : Status) : t.degrade.ovr = t.ovr := rfl
@[simp] theorem Status.fallBack_busy (t : Status) : t.fallBack.busy = t.busy := rfl
@[simp] theorem Status.fallBack_err (t : Status) : t.fallBack.err = t.err := rfl
@[simp] theorem Status.fallBack_degraded (t : Status) : t.fallBack.degraded = t.degraded := rfl
@[simp] theorem Status.fallBack_fallback (t : Status) : t.fallBack.fallback = true := rfl
@[simp] theorem Status.fallBack_ovr (t : Status) : t.fallBack.ovr = t.ovr := rfl
@[simp] theorem Status.overrun_busy (t : Status) : t.overrun.busy = t.busy := rfl
@[simp] theorem Status.overrun_err (t : Status) : t.overrun.err = t.err := rfl
@[simp] theorem Status.overrun_degraded (t : Status) : t.overrun.degraded = t.degraded := rfl
@[simp] theorem Status.overrun_fallback (t : Status) : t.overrun.fallback = t.fallback := rfl
@[simp] theorem Status.overrun_ovr (t : Status) : t.overrun.ovr = true := rfl

end Sys2Proof.Machine
end

