-- ==== Sys2Proof/Laws/Slots.lean ====
section
/-! SUPPORT. The bytes of a slot after each store, the words of the window, and the 64-bit values of registers. -/

namespace Sys2Proof.Machine

theorem append4_getLsbD (a b c d : Byte) (i : Nat) : (BitVec.getLsbD (w := 32) (a ++ b ++ c ++ d) i) =
   if i < 8 then d.getLsbD i else if i < 16 then c.getLsbD (i-8) else if i < 24 then b.getLsbD (i-16) else a.getLsbD (i-24) := by
  have h : BitVec.getLsbD (w := 32) (a ++ b ++ c ++ d) i = BitVec.getLsbD (w := 8+8+8+8) (a ++ b ++ c ++ d) i := rfl
  rw [h]
  simp only [BitVec.getLsbD_append, Nat.sub_sub]
  repeat' split
  all_goals first | rfl | omega

theorem append4_extract (a b c d : Byte) (m : Fin 4) : BitVec.extractLsb' (n := 32) (24 - 8*m.val) 8 (a ++ b ++ c ++ d) = (#v[a,b,c,d])[m] := by
  apply BitVec.eq_of_getLsbD_eq; intro i hi
  rw [BitVec.getLsbD_extractLsb', append4_getLsbD]
  fin_cases m <;> simp [hi] <;> (repeat' split) <;> first | omega | (congr 1 <;> omega)

theorem val128_getLsbD (b : Vector Byte 16) (i : Nat) (h : i < 128) : (val128 b).getLsbD i = (b[15 - i/8]'(by omega)).getLsbD (i % 8) := by
  have e : (val128 b).getLsbD i = BitVec.getLsbD (w := (8+8+8+8+8+8) + (8+8+8+8+8+8+8+8+8+8)) ((b[0] ++ b[1] ++ b[2] ++ b[3] ++ b[4] ++ b[5]) ++ (b[6] ++ b[7] ++ b[8] ++ b[9] ++ b[10] ++ b[11] ++ b[12] ++ b[13] ++ b[14] ++ b[15])) i := rfl
  rw [e]
  simp only [BitVec.getLsbD_append, Nat.sub_sub]
  obtain ⟨q, r, hr, rfl⟩ : ∃ q r, r < 8 ∧ i = 8 * q + r := ⟨i / 8, i % 8, by omega, by omega⟩
  have hq : q < 16 := by omega
  have e1 : (8 * q + r) / 8 = q := by omega
  have e2 : (8 * q + r) % 8 = r := by omega
  simp only [e1, e2]
  interval_cases q <;> (repeat (first | rw [if_pos (by omega)] | rw [if_neg (by omega)])) <;> (congr 1; omega)

theorem slotWord_eq (b : Vector Byte 16) (j : Fin 4) : slotWord b j = (val128 b).extractLsb' (96 - 32*j.val) 32 := by
  apply BitVec.eq_of_getLsbD_eq; intro i hi
  rw [BitVec.getLsbD_extractLsb', slotWord, append4_getLsbD]
  rw [decide_eq_true hi, Bool.true_and]
  rw [val128_getLsbD _ _ (by omega)]
  fin_cases j <;> simp <;> (repeat' split) <;> congr 1 <;> first | omega | (congr 1; omega)

theorem slot_setSlot_self (d : SlotId) (b : Slot) (s : State) : (s.setSlot d b).slot d = b := by
  simp [State.slot, State.setSlot]

theorem slot_setSlot_other {d e : SlotId} (h : e ≠ d) (b : Slot) (s : State) : (s.setSlot d b).slot e = s.slot e := by
  have : d.val ≠ e.val := fun hh => h (Fin.ext hh.symm)
  simp [State.slot, State.setSlot, this]

theorem slotBytes_get (s : State) (d : SlotId) (k : Fin 16) : (s.slotBytes d)[k] = ((s.slot d)[k]).val := by
  simp [State.slotBytes, Slot.bytes]

theorem slot_complete (s : State) (d) : s.complete.slot d = s.slot d := rfl

theorem setSlotByte_get (d k v) (s : State) (i : Fin 16) : ((State.setSlotByte d k v s).slot d)[i] = if i = k then .written v else (s.slot d)[i] := by
  rw [State.setSlotByte, slot_setSlot_self]
  by_cases h : i = k
  · subst h; simp
  · have : k.val ≠ i.val := fun hh => h (Fin.ext hh.symm)
    simp [h, this]

theorem withWord_get (j : Fin 4) (v : Word) (b : Slot) (k : Fin 16) :
    (Slot.withWord j v b)[k] = if k.val / 4 = j.val then .written (wordByte v (k.val % 4)) else b[k] := by
  simp [Slot.withWord]

theorem withTs_get (t : Dword) (b : Slot) (k : Fin 16) : (Slot.withTs t b)[k] = if k.val < 6 then .written (tsByte t k.val) else b[k] := by
  simp [Slot.withTs]

theorem ofParts_get (t : Dword) (e : Vector Byte 10) (k : Fin 16) : (Slot.ofParts t e)[k] = if h : k.val < 6 then .written (tsByte t k.val) else .written (e[k.val - 6]'(by omega)) := by
  simp [Slot.ofParts]

theorem ofVal_val (v : Dword) : (Reg64.ofVal v).val = v := by
  apply BitVec.eq_of_getLsbD_eq; intro i hi
  have : BitVec.getLsbD (w := 64) (Reg64.ofVal v).val i = BitVec.getLsbD (w := 32+32) (v.extractLsb' 32 32 ++ v.extractLsb' 0 32) i := rfl
  rw [this, BitVec.getLsbD_append, BitVec.getLsbD_extractLsb', BitVec.getLsbD_extractLsb']
  split
  · rename_i h; simp [h]
  · rw [decide_eq_true (by omega), Bool.true_and]; congr 1; omega

theorem zext48 (x : BitVec 48) : x.setWidth 64 = (0#16 ++ x : BitVec 64) := by
  apply BitVec.eq_of_toNat_eq
  have : (0#16 ++ x : BitVec 64).toNat = (BitVec.append 0#16 x).toNat := rfl
  rw [this]
  show _ = (0#16 ++ x).toNat
  rw [BitVec.toNat_append]; simp; omega

theorem zext48_toNat (x : BitVec 48) : (0#16 ++ x : BitVec 64).toNat = x.toNat := by
  show (0#16 ++ x).toNat = _
  rw [BitVec.toNat_append]; simp

end Sys2Proof.Machine
end

