-- ==== Sys2Proof/Laws/Window.lean ====
section
/-! SUPPORT. What a step is for each input, and each access of the window (20_memory R52 to R61). -/

namespace Sys2Proof.Machine

theorem regAt_offset (r : Reg) : regAt r.offset = some r := by
  cases r <;> (try rfl)
  · rename_i s j; revert s j; decide
  · rename_i j; revert j; decide

theorem regAt_some {off : BitVec 8} {r : Reg} : regAt off = some r → r.offset = off := by
  revert off r; decide

theorem step_cons {s : State} {e : Input} {rest : List Input} (h : s.inputs = e :: rest) :
    step s = ({ s with inputs := rest }).perform e := by
  unfold step; rw [h]

theorem step_nil {s : State} (h : s.inputs = []) : step s = s.coreTurn := by
  unfold step; rw [h]

theorem perform_rd (r : Reg) (s : State) : s.perform (rd r) = .next (s.readReg r) := by
  simp [rd, State.perform, State.access, regAt_offset]

theorem perform_wr (r : Reg) (v : Word) (s : State) : s.perform (wr r v) = s.writeReg r v := by
  simp [wr, State.perform, State.access, regAt_offset]

theorem perform_notAdmitted (s : State) (off : BitVec 8) (bytes : Nat) (v : Word) (h : bytes ≠ 4 ∨ regAt off = none) :
    s.perform (.host (.read off bytes)) = .next s.busError ∧ s.perform (.host (.write off bytes v)) = .next s.busError := by
  simp only [State.perform, State.access]
  rcases h with h | h
  · cases regAt off <;> simp [h]
  · simp [h]

theorem readReg_idle {s : State} {r : Reg} (h : s.status.busy = false) : s.readReg r = s.respond (.data r (s.regValue r)) := by
  simp [State.readReg, h]

theorem storeIfIdle_cases (f : State → State) (s : State) :
    (s.status.busy = true ∧ s.storeIfIdle f = s.overrun) ∨ (s.status.busy = false ∧ s.storeIfIdle f = (f s).respond .written) := by
  cases h : s.status.busy <;> simp [State.storeIfIdle, h]

theorem run_succ {n : Nat} {s t : State} (h : step s = .next t) : Host.Core.run core (n+1) s = Host.Core.run core n t := by
  have e : core.step s = .next t := h
  simp only [Host.Core.run, e]

end Sys2Proof.Machine
end

