-- ==== Sys2Proof/Laws/Commands.lean ====
section
/-! SUPPORT. The equations of each command, in each phase (40_encoder.md, 41_codec.md, 42_identifier_ops.md). -/

namespace Sys2Proof.Machine

theorem exec_single (i : Instr) (hs : Instr.singleStep i = true) : ∃ f : State → State, ∀ s, exec i s = s.runSingle i f := by
  cases i <;> first | exact ⟨_, fun _ => rfl⟩ | cases hs

theorem runSingle_idle {i f} {s : State} (h : s.status.busy = false) : s.runSingle i f = .next (s.accept i .exec) := by
  simp [State.runSingle, h]

theorem runSingle_exec {i f} {s : State} (h : s.status.busy = true) (hp : s.seq.phase = .exec) : s.runSingle i f = .next (f s).complete := by
  simp [State.runSingle, h, hp]

theorem runSingle_busy {i f} {s t : State} (hb : s.status.busy = true) (h : s.runSingle i f = .next t) :
    s.seq.phase = .exec ∧ t = (f s).complete := by
  simp only [State.runSingle, hb, if_true] at h
  split at h <;> first | (cases h; exact ⟨‹_›, rfl⟩) | cases h

theorem exec_encConst (d v) (s : State) : exec (.encConst d v) s =
    s.runSingle (.encConst d v) fun t => t.setSlot d (Slot.ofParts t.seq.ts (Vector.replicate 10 v)) := rfl

theorem exec_encSkip (d) (s : State) : exec (.encSkip d) s =
    s.runSingle (.encSkip d) fun t => t.setSlot d ((t.slot d).withTs t.seq.ts) := rfl

theorem exec_render (d) (s : State) : exec (.render d) s = s.runSingle (.render d) fun t => t.setStr (renderStr (val128 (t.slotBytes d))) := rfl

theorem exec_extract (d) (s : State) : exec (.extract d) s =
    s.runSingle (.extract d) fun t => t.setResult ((ts48 (t.slotBytes d)).setWidth 64) := rfl

theorem exec_cmp (a b) (s : State) : exec (.cmp a b) s =
    s.runSingle (.cmp a b) fun t => t.setResult (cmpResult (t.slotBytes a) (t.slotBytes b)) := rfl

theorem exec_eq (a b) (s : State) : exec (.eq a b) s =
    s.runSingle (.eq a b) fun t => t.setResult (eqResult (t.slotBytes a) (t.slotBytes b)) := rfl

theorem exec_copy (a b) (s : State) : exec (.copy a b) s =
    s.runSingle (.copy a b) fun t => t.setSlot b (t.slot a) := rfl

theorem exec_port_busy (d) {s : State} (hb : s.status.busy = true) : exec (.encPort d) s = s.portStep d := by
  simp only [exec, execEncPort, hb]; rfl

theorem portStep_ts (d) {s : State} (hp : s.seq.phase = .tsWrite) : s.portStep d = .next (s.tsWriteStep d) := by
  simp only [State.portStep, hp]

theorem portStep_wait (d) {s : State} (hp : s.seq.phase = .entWait) (h : s.entAnswer = none) : s.portStep d = .next s := by
  simp only [State.portStep, hp, h]

theorem portStep_ans (d) {s : State} {a} (hp : s.seq.phase = .entWait) (h : s.entAnswer = some a) : s.portStep d = .next (s.entStep d a) := by
  simp only [State.portStep, hp, h]

theorem portStep_inv {d} {s t : State} (h : s.portStep d = .next t) :
    (s.seq.phase = .tsWrite ∧ t = s.tsWriteStep d) ∨ (s.seq.phase = .entWait ∧ s.entAnswer = none ∧ t = s) ∨
    ∃ a, s.seq.phase = .entWait ∧ s.entAnswer = some a ∧ t = s.entStep d a := by
  unfold State.portStep at h
  split at h
  · cases h; exact .inl ⟨‹_›, rfl⟩
  · split at h
    · cases h; exact .inr (.inr ⟨_, ‹_›, ‹_›, rfl⟩)
    · cases h; exact .inr (.inl ⟨‹_›, ‹_›, rfl⟩)
  all_goals cases h

theorem entStep_slots (d a) (s : State) : (s.entStep d a).slots = (s.setSlotByte d s.seq.k a.stored).slots := by
  unfold State.entStep; split <;> rfl

theorem slot_tsWriteStep (d : SlotId) (s : State) (e) : (s.tsWriteStep d).slot e = (s.setSlot d ((s.slot d).withTs s.seq.ts)).slot e := rfl

theorem slot_entStep (d a) (s : State) (e) : (s.entStep d a).slot e = (s.setSlotByte d s.seq.k a.stored).slot e := by
  unfold State.slot; rw [entStep_slots]

theorem exec_bulk_wait (d) {s : State} (hb : s.status.busy = true) (hp : s.seq.phase = .bulkWait) :
    exec (.encBulk d) s = match s.bulkAnswer with | some a => .next (s.bulkStep d a) | none => .next s := by
  simp only [exec, execEncBulk, hb, hp]; rfl

theorem bulkStep_fb (d a) (s : State) (h : ∀ b, a ≠ .got 10 b) : s.bulkStep d a = { s with bulkAnswer := none, status := { s.status with fallback := true }, seq := { s.seq with phase := .tsWrite, fb := true } } := by
  cases a with
  | fail => rfl
  | got n b =>
    have : n ≠ 10 := fun hn => h b (by rw [hn])
    simp only [State.bulkStep, if_neg this]; rfl

theorem slot_bulkOk (d b) (s : State) (e) : (s.bulkStep d (.got 10 b)).slot e = (s.setSlot d (Slot.ofParts s.seq.ts b)).slot e := rfl

theorem exec_bulk_port (d) {s : State} (hb : s.status.busy = true) (hp : s.seq.phase = .tsWrite ∨ s.seq.phase = .entWait) :
    exec (.encBulk d) s = s.portStep d := by
  rcases hp with hp | hp <;> simp only [exec, execEncBulk, hb, hp] <;> rfl

theorem issue_cases (i : Instr) : (Instr.singleStep i = true) ∨ (∃ d, i = .encPort d) ∨ (∃ d, i = .encBulk d) := by
  cases i <;> simp [Instr.singleStep]

theorem renderStr_get (v : Ident) (i : Fin 27) : (renderStr v)[i] = .written (renderByte v i.val) := by
  simp [renderStr]

theorem str_render (b : Str) (s : State) : (s.setStr b).complete.str = b := rfl

theorem frame_setStr (b : Str) (s : State) : (s.setStr b).complete = { s with str := (s.setStr b).complete.str, status := { s.status with busy := false }, seq := { s.seq with phase := .idle } } := rfl

theorem compareBytes_same (l : List Byte) : compareBytes l l = 0 := by
  induction l with
  | nil => rfl
  | cons a l ih => simp [compareBytes, ih]

theorem compareBytes_first (l m : List Byte) (hlen : l.length = m.length) (j : Nat) (hj : j < l.length)
    (hpre : ∀ i (h : i < j), l[i]'(by omega) = m[i]'(by omega)) (hne : l[j] ≠ m[j]'(by omega)) :
    compareBytes l m = if l[j].toNat < (m[j]'(by omega)).toNat then 0xFFFF_FFFF_FFFF_FFFF else 1 := by
  induction l generalizing m j with
  | nil => simp at hj
  | cons a l ih =>
    cases m with
    | nil => simp at hlen
    | cons b m =>
      cases j with
      | zero => simp at hne ⊢; simp [compareBytes, hne]
      | succ j =>
        have h0 := hpre 0 (by omega)
        simp at h0; subst h0
        simp only [compareBytes, if_true, List.getElem_cons_succ] at hne ⊢
        exact ih m (by simpa using hlen) j (by simpa using hj) (fun i h => by simpa using hpre (i+1) (by omega)) hne

end Sys2Proof.Machine
end

