-- ==== Sys2Proof/Laws/Encoding.lean ====
section
/-! SUPPORT. The fields of a command word, and what the decoder says of them (30_encoding R80 to R88). -/

namespace Sys2Proof

theorem RawCommand.word_getLsbD (r : RawCommand) (i : Nat) : r.word.getLsbD i =
    if i < 4 then r.op.getLsbD i else if i < 6 then r.sa.getLsbD (i - 4) else if i < 8 then r.sb.getLsbD (i - 6)
    else if i < 16 then r.imm.getLsbD (i - 8) else r.res.getLsbD (i - 16) := by
  have h : r.word.getLsbD i = BitVec.getLsbD (w := 16+8+2+2+4) (r.res ++ r.imm ++ r.sb ++ r.sa ++ r.op) i := rfl
  rw [h]
  simp only [BitVec.getLsbD_append, Nat.sub_sub]
  repeat' split
  all_goals first | rfl | omega

theorem RawCommand.ofWord_word (r : RawCommand) : RawCommand.ofWord r.word = r := by
  obtain ⟨op, sa, sb, imm, res⟩ := r
  simp only [RawCommand.ofWord, RawCommand.mk.injEq]
  refine ⟨?_, ?_, ?_, ?_, ?_⟩ <;> apply BitVec.eq_of_getLsbD_eq <;> intro i hi <;> 
    rw [BitVec.getLsbD_extractLsb', RawCommand.word_getLsbD] <;> simp only [hi, decide_true, Bool.true_and] <;>
    (repeat' split) <;> first | omega | (congr 1; omega)

theorem RawCommand.word_ofWord (w : Word) : (RawCommand.ofWord w).word = w := by
  apply BitVec.eq_of_getLsbD_eq; intro i hi
  rw [RawCommand.word_getLsbD]
  simp only [RawCommand.ofWord, BitVec.getLsbD_extractLsb']
  repeat' split
  all_goals (rw [decide_eq_true (by omega), Bool.true_and]; congr 1; omega)

theorem decodeWord_eq (w : Word) : decodeWord w = if (RawCommand.ofWord w).res = 0 then decodeFields (RawCommand.ofWord w).op (RawCommand.ofWord w).sa (RawCommand.ofWord w).sb (RawCommand.ofWord w).imm else .error .reservedBits := rfl

theorem decodeFields_fields (i : Instr) : decodeFields i.fields.op i.fields.sa i.fields.sb i.fields.imm = .ok i := by
  cases i <;> rfl

theorem oneSlot_ok {sb : BitVec 2} {imm : Byte} {i j : Instr} (h : oneSlot sb imm i = .ok j) : sb = 0 ∧ imm = 0 ∧ i = j := by
  unfold oneSlot at h; split at h
  · split at h
    · cases h; exact ⟨‹_›, ‹_›, rfl⟩
    · cases h
  · cases h

theorem slotAndImm_ok {sb : BitVec 2} {i j : Instr} (h : slotAndImm sb i = .ok j) : sb = 0 ∧ i = j := by
  unfold slotAndImm at h; split at h
  · cases h; exact ⟨‹_›, rfl⟩
  · cases h

theorem twoSlots_ok {imm : Byte} {i j : Instr} (h : twoSlots imm i = .ok j) : imm = 0 ∧ i = j := by
  unfold twoSlots at h; split at h
  · cases h; exact ⟨‹_›, rfl⟩
  · cases h

theorem decodeFields_ok {op : BitVec 4} {sa sb : BitVec 2} {imm : Byte} {i : Instr}
    (h : decodeFields op sa sb imm = .ok i) : i.fields = { op := op, sa := sa, sb := sb, imm := imm, res := 0 } := by
  have hop : BitVec.ofNat 4 op.toNat = op := by simp
  unfold decodeFields at h
  split at h
  case h_10 => cases h
  all_goals
    rename_i e
    rw [← hop, e]
    first
    | (obtain ⟨rfl, rfl, rfl⟩ := oneSlot_ok h; rfl)
    | (obtain ⟨rfl, rfl⟩ := slotAndImm_ok h; rfl)
    | (obtain ⟨rfl, rfl⟩ := twoSlots_ok h; rfl)

theorem decodeWord_ok {w : Word} {i : Instr} (h : decodeWord w = .ok i) : RawCommand.ofWord w = i.fields := by
  rw [decodeWord_eq] at h
  split at h
  · rename_i hr
    rw [decodeFields_ok h, ← hr]
  · cases h

theorem Instr.wellFormed_true (i : Instr) : i.wellFormed = true := by
  cases i <;> rfl

theorem extract_and {w m t : Word} (h : w &&& m = t) (a n : Nat) : (w.extractLsb' a n) &&& (m.extractLsb' a n) = t.extractLsb' a n := by
  rw [← h, BitVec.extractLsb'_and]

theorem and_allOnes {n : Nat} (x m : BitVec n) (hm : m = BitVec.allOnes n) : x &&& m = x := by
  rw [hm, BitVec.and_allOnes]

theorem fields_of_row {w : Word} {i : Instr} (h : w &&& i.tableMask = i.tableMatch) :
    (RawCommand.ofWord w).op = i.fields.op ∧ (i.fields.usesSlotB = false → (RawCommand.ofWord w).sb = 0) ∧
    (i.fields.usesImm = false → (RawCommand.ofWord w).imm = 0) ∧ (RawCommand.ofWord w).res = 0 := by
  refine ⟨?_, ?_, ?_, ?_⟩
  · have f := extract_and h 0 4
    rw [and_allOnes _ _ (by cases i <;> (simp only [Instr.tableMask]; decide))] at f
    simp only [RawCommand.ofWord]; rw [f]; cases i <;> (simp only [Instr.tableMatch, Instr.fields]; decide)
  · intro hu
    have f := extract_and h 6 2
    rw [and_allOnes _ _ (by cases i <;> first | (simp only [Instr.tableMask]; decide) | (exact absurd hu (by simp [Instr.fields, RawCommand.usesSlotB, RawCommand.usesImm])))] at f
    simp only [RawCommand.ofWord]; rw [f]; cases i <;> first | (simp only [Instr.tableMatch]; decide) | (exact absurd hu (by simp [Instr.fields, RawCommand.usesSlotB, RawCommand.usesImm]))
  · intro hu
    have f := extract_and h 8 8
    rw [and_allOnes _ _ (by cases i <;> first | (simp only [Instr.tableMask]; decide) | (exact absurd hu (by simp [Instr.fields, RawCommand.usesSlotB, RawCommand.usesImm])))] at f
    simp only [RawCommand.ofWord]; rw [f]; cases i <;> first | (simp only [Instr.tableMatch]; decide) | (exact absurd hu (by simp [Instr.fields, RawCommand.usesSlotB, RawCommand.usesImm]))
  · have f := extract_and h 16 16
    rw [and_allOnes _ _ (by cases i <;> (simp only [Instr.tableMask]; decide))] at f
    simp only [RawCommand.ofWord]; rw [f]; cases i <;> (simp only [Instr.tableMatch, Instr.fields]; decide)

end Sys2Proof
end

