-- ==== Sys2Proof/Laws/Moves.lean ====
section
/-! SUPPORT. Everything a step can do, said once: `step_move`. Statements over all steps follow from it by cases. -/

namespace Sys2Proof.Machine

/-- What a turn of CORE can do. -/
inductive CoreMove (s : State) : Instr → State → Prop where
  | encConst (d v) (hp : s.seq.phase = .exec) :
      CoreMove s (.encConst d v) (s.setSlot d (Slot.ofParts s.seq.ts (Vector.replicate 10 v))).complete
  | encSkip (d) (hp : s.seq.phase = .exec) : CoreMove s (.encSkip d) (s.setSlot d ((s.slot d).withTs s.seq.ts)).complete
  | render (d) (hp : s.seq.phase = .exec) : CoreMove s (.render d) (s.setStr (renderStr (val128 (s.slotBytes d)))).complete
  | extract (d) (hp : s.seq.phase = .exec) :
      CoreMove s (.extract d) (s.setResult ((ts48 (s.slotBytes d)).setWidth 64)).complete
  | cmp (a b) (hp : s.seq.phase = .exec) :
      CoreMove s (.cmp a b) (s.setResult (cmpResult (s.slotBytes a) (s.slotBytes b))).complete
  | eq (a b) (hp : s.seq.phase = .exec) :
      CoreMove s (.eq a b) (s.setResult (eqResult (s.slotBytes a) (s.slotBytes b))).complete
  | copy (a b) (hp : s.seq.phase = .exec) : CoreMove s (.copy a b) (s.setSlot b (s.slot a)).complete
  | tsWrite (i d) (hi : i = .encPort d ∨ i = .encBulk d) (hp : s.seq.phase = .tsWrite) : CoreMove s i (s.tsWriteStep d)
  | entWait (i d) (hi : i = .encPort d ∨ i = .encBulk d) (hp : s.seq.phase = .entWait) (ha : s.entAnswer = none) :
      CoreMove s i s
  | ent (i d a) (hi : i = .encPort d ∨ i = .encBulk d) (hp : s.seq.phase = .entWait) (ha : s.entAnswer = some a) :
      CoreMove s i (s.entStep d a)
  | bulkWait (d) (hp : s.seq.phase = .bulkWait) (ha : s.bulkAnswer = none) : CoreMove s (.encBulk d) s
  | bulk (d a) (hp : s.seq.phase = .bulkWait) (ha : s.bulkAnswer = some a) : CoreMove s (.encBulk d) (s.bulkStep d a)

theorem portStep_core {i d} {s t : State} (hi : i = .encPort d ∨ i = .encBulk d) (h : s.portStep d = .next t) : CoreMove s i t := by
  rcases portStep_inv h with ⟨hp, rfl⟩ | ⟨hp, ha, rfl⟩ | ⟨a, hp, ha, rfl⟩
  · exact .tsWrite i d hi hp
  · exact .entWait i d hi hp ha
  · exact .ent i d a hi hp ha

theorem exec_core {i} {s t : State} (hb : s.status.busy = true) (h : exec i s = .next t) : CoreMove s i t := by
  cases i with
  | encConst d v => obtain ⟨hp, rfl⟩ := runSingle_busy hb (exec_encConst d v s ▸ h); exact .encConst d v hp
  | encSkip d => obtain ⟨hp, rfl⟩ := runSingle_busy hb (exec_encSkip d s ▸ h); exact .encSkip d hp
  | render d => obtain ⟨hp, rfl⟩ := runSingle_busy hb (exec_render d s ▸ h); exact .render d hp
  | extract d => obtain ⟨hp, rfl⟩ := runSingle_busy hb (exec_extract d s ▸ h); exact .extract d hp
  | cmp a b => obtain ⟨hp, rfl⟩ := runSingle_busy hb (exec_cmp a b s ▸ h); exact .cmp a b hp
  | eq a b => obtain ⟨hp, rfl⟩ := runSingle_busy hb (exec_eq a b s ▸ h); exact .eq a b hp
  | copy a b => obtain ⟨hp, rfl⟩ := runSingle_busy hb (exec_copy a b s ▸ h); exact .copy a b hp
  | encPort d => rw [exec_port_busy d hb] at h; exact portStep_core (.inl rfl) h
  | encBulk d =>
    cases hp : s.seq.phase with
    | bulkWait =>
      rw [exec_bulk_wait d hb hp] at h
      split at h
      · cases h; exact .bulk d _ hp ‹_›
      · cases h; exact .bulkWait d hp ‹_›
    | tsWrite => rw [exec_bulk_port d hb (.inl hp)] at h; exact portStep_core (.inr rfl) h
    | entWait => rw [exec_bulk_port d hb (.inr hp)] at h; exact portStep_core (.inr rfl) h
    | idle => simp only [exec, execEncBulk, hb, hp] at h; cases h
    | exec => simp only [exec, execEncBulk, hb, hp] at h; cases h

/-- What issuing a command can do. -/
inductive IssueMove (s : State) : Instr → State → Prop where
  | single (i) (hs : Instr.singleStep i = true) : IssueMove s i (s.accept i .exec)
  | port (d) (he : s.cfg.entPresent = true) : IssueMove s (.encPort d) (s.accept (.encPort d) .tsWrite)
  | bulk (d) (he : s.cfg.entPresent = true) (hp : s.cfg.bulkPresent = true) :
      IssueMove s (.encBulk d) (s.accept (.encBulk d) .bulkWait)
  | bulkAbsent (d) (he : s.cfg.entPresent = true) (hp : s.cfg.bulkPresent = false) :
      IssueMove s (.encBulk d) (s.accept (.encBulk d) .tsWrite).fallBack
  | refused (i) (hs : Instr.singleStep i = false) (he : s.cfg.entPresent = false) :
      IssueMove s i (s.cmdError .invalidArg)

theorem exec_issue {i} {s t : State} (hb : s.status.busy = false) (h : exec i s = .next t) : IssueMove s i t := by
  rcases issue_cases i with hs | ⟨d, rfl⟩ | ⟨d, rfl⟩
  · obtain ⟨f, hf⟩ := exec_single i hs
    rw [hf, runSingle_idle hb] at h; cases h; exact .single i hs
  · simp only [exec, execEncPort, hb, State.acceptIfEnt] at h
    cases h
    cases he : s.cfg.entPresent
    · exact .refused _ rfl he
    · exact .port d he
  · simp only [exec, execEncBulk, hb, State.acceptIfEnt, State.acceptBulk] at h
    cases h
    cases he : s.cfg.entPresent
    · exact .refused _ rfl he
    · cases hp : s.cfg.bulkPresent
      · exact .bulkAbsent d he hp
      · exact .bulk d he hp

/-- The registers a host write stores into: a write to one while BUSY = 1 sets OVR (R60). -/
def Reg.stored : Reg → Bool
  | .tsLo => true | .tsHi => true | .ctxLo => true | .ctxHi => true | .slotWord _ _ => true
  | .cmd => false | .status => false | .cfg => false | .resultLo => false | .resultHi => false | .strWord _ => false

/-- The registers whose writes are ignored (R58). -/
def Reg.readOnly : Reg → Bool
  | .cfg => true | .resultLo => true | .resultHi => true | .strWord _ => true
  | .tsLo => false | .tsHi => false | .ctxLo => false | .ctxHi => false | .slotWord _ _ => false
  | .cmd => false | .status => false

/-- What each input can do. -/
inductive InputMove (s : State) : Input → State → Prop where
  | busError (a) (h : ∀ r v, Input.host a ≠ wr r v ∧ Input.host a ≠ rd r) : InputMove s (.host a) (s.respond .busError)
  | read (r v n) : InputMove s (rd r) { s with response := .data r v, draws := n }
  | overrun (r v) (hb : s.status.busy = true) (hr : r = .cmd ∨ Reg.stored r = true) : InputMove s (wr r v) s.overrun
  | readOnly (r v) (hr : Reg.readOnly r = true) : InputMove s (wr r v) (s.respond .written)
  | status (v) : InputMove s (wr .status v) { s with status := s.status.hostWrite v, response := .written }
  | tsLo (v) (hb : s.status.busy = false) : InputMove s (wr .tsLo v) { s with ts := { s.ts with lo := .written v }, response := .written }
  | tsHi (v) (hb : s.status.busy = false) : InputMove s (wr .tsHi v) { s with ts := { s.ts with hi := .written v }, response := .written }
  | ctxLo (v) (hb : s.status.busy = false) : InputMove s (wr .ctxLo v) { s with ctx := { s.ctx with lo := .written v }, response := .written }
  | ctxHi (v) (hb : s.status.busy = false) : InputMove s (wr .ctxHi v) { s with ctx := { s.ctx with hi := .written v }, response := .written }
  | slotWord (d j v) (hb : s.status.busy = false) :
      InputMove s (wr (.slotWord d j) v) ((s.setSlot d ((s.slot d).withWord j v)).respond .written)
  | illegal (w e) (hb : s.status.busy = false) (hd : decodeWord w = .error e) :
      InputMove s (wr .cmd w) ((s.respond .written).cmdError .illegalCmd)
  | issue (w i t) (hb : s.status.busy = false) (hd : decodeWord w = .ok i) (h : IssueMove (s.respond .written) i t) :
      InputMove s (wr .cmd w) t
  | coreIdle (hb : s.status.busy = false) : InputMove s .core s
  | core (i t) (hb : s.status.busy = true) (hr : s.seq.running = .ok i) (h : CoreMove s i t) : InputMove s .core t
  | ent (n a) : InputMove s (.ent n a) (s.entAnswers n a)
  | bulk (n a) : InputMove s (.bulk n a) (s.bulkAnswers n a)
  | reset : InputMove s .reset s.assertReset

theorem coreTurn_move {s t : State} (h : s.coreTurn = .next t) : InputMove s .core t := by
  unfold State.coreTurn at h
  split at h
  · split at h
    · exact .core _ _ ‹_› ‹_› (exec_core ‹_› h)
    · cases h
  · cases h; exact .coreIdle (by rename_i hn; simpa using hn)

theorem writeReg_move {r v} {s t : State} (h : s.writeReg r v = .next t) : InputMove s (wr r v) t := by
  cases r with
  | cmd =>
    simp only [State.writeReg] at h
    split at h
    · cases h; exact .overrun _ _ ‹_› (.inl rfl)
    · have hb : s.status.busy = false := by rename_i hn; simpa using hn
      unfold State.issueWord at h
      split at h
      · exact .issue _ _ _ hb ‹_› (exec_issue hb h)
      · cases h; exact .illegal _ _ hb ‹_›
  | status => cases h; exact .status v
  | cfg => cases h; exact .readOnly _ _ rfl
  | resultLo => cases h; exact .readOnly _ _ rfl
  | resultHi => cases h; exact .readOnly _ _ rfl
  | strWord j => cases h; exact .readOnly _ _ rfl
  | tsLo =>
    cases h
    rcases storeIfIdle_cases (fun t => { t with ts := { t.ts with lo := .written v } }) s with ⟨hb, e⟩ | ⟨hb, e⟩ <;> rw [e]
    · exact .overrun _ _ hb (.inr rfl)
    · exact .tsLo v hb
  | tsHi =>
    cases h
    rcases storeIfIdle_cases (fun t => { t with ts := { t.ts with hi := .written v } }) s with ⟨hb, e⟩ | ⟨hb, e⟩ <;> rw [e]
    · exact .overrun _ _ hb (.inr rfl)
    · exact .tsHi v hb
  | ctxLo =>
    cases h
    rcases storeIfIdle_cases (fun t => { t with ctx := { t.ctx with lo := .written v } }) s with ⟨hb, e⟩ | ⟨hb, e⟩ <;> rw [e]
    · exact .overrun _ _ hb (.inr rfl)
    · exact .ctxLo v hb
  | ctxHi =>
    cases h
    rcases storeIfIdle_cases (fun t => { t with ctx := { t.ctx with hi := .written v } }) s with ⟨hb, e⟩ | ⟨hb, e⟩ <;> rw [e]
    · exact .overrun _ _ hb (.inr rfl)
    · exact .ctxHi v hb
  | slotWord d j =>
    cases h
    rcases storeIfIdle_cases (fun t => t.setSlot d ((t.slot d).withWord j v)) s with ⟨hb, e⟩ | ⟨hb, e⟩ <;> rw [e]
    · exact .overrun _ _ hb (.inr rfl)
    · exact .slotWord d j v hb

theorem readReg_move (r : Reg) (s : State) : InputMove s (rd r) (s.readReg r) := by
  unfold State.readReg
  split
  · exact .read r _ _
  · exact .read r _ s.draws

theorem regAt_none_ne {off : BitVec 8} (h : regAt off = none) (r : Reg) : r.offset ≠ off := by
  intro e; rw [← e, regAt_offset] at h; cases h

theorem access_move {a} {s t : State} (h : s.access a = .next t) : InputMove s (.host a) t := by
  cases a with
  | read off n =>
    simp only [State.access] at h
    split at h
    · rename_i r hr
      cases h
      split
      · subst n; rw [← regAt_some hr]; exact readReg_move r s
      · rename_i hn
        exact .busError _ fun r v => ⟨by simp [wr], by simp [rd, hn]⟩
    · rename_i hr
      cases h
      exact .busError _ fun r v => ⟨by simp [wr], by simp [rd, Ne.symm (regAt_none_ne hr r)]⟩
  | write off n v =>
    simp only [State.access] at h
    split at h
    · rename_i r hr
      split at h
      · subst n; rw [← regAt_some hr]; exact writeReg_move h
      · rename_i hn
        cases h
        exact .busError _ fun r v => ⟨by simp [wr, hn], by simp [rd]⟩
    · rename_i hr
      cases h
      exact .busError _ fun r v => ⟨by simp [wr, Ne.symm (regAt_none_ne hr r)], by simp [rd]⟩

theorem perform_move {e} {s t : State} (h : s.perform e = .next t) : InputMove s e t := by
  cases e with
  | host a => exact access_move h
  | core => exact coreTurn_move h
  | ent n a => cases h; exact .ent n a
  | bulk n a => cases h; exact .bulk n a
  | reset => cases h; exact .reset

theorem step_move {s t : State} (h : step s = .next t) :
    (∃ e rest, s.inputs = e :: rest ∧ InputMove { s with inputs := rest } e t) ∨ (s.inputs = [] ∧ InputMove s .core t) := by
  unfold step at h
  split at h
  · exact .inr ⟨‹_›, coreTurn_move h⟩
  · exact .inl ⟨_, _, ‹_›, perform_move h⟩

theorem offset_inj {r r' : Reg} (h : r.offset = r'.offset) : r = r' := by
  have := regAt_offset r; rw [h, regAt_offset] at this; exact (Option.some.inj this).symm

@[simp] theorem wr_inj {r r' v v'} : wr r v = wr r' v' ↔ r = r' ∧ v = v' := by
  simp only [wr, Input.host.injEq, Access.write.injEq, true_and]
  exact ⟨fun ⟨a, b⟩ => ⟨offset_inj a, b⟩, fun ⟨a, b⟩ => ⟨by rw [a], b⟩⟩

@[simp] theorem wr_ne_rd {r r' v} : wr r v ≠ rd r' := by simp [wr, rd]

@[simp] theorem rd_ne_wr {r r' v} : rd r ≠ wr r' v := by simp [wr, rd]

@[simp] theorem wr_reset {r v} : wr r v ≠ .reset := by simp [wr]

@[simp] theorem rd_reset {r} : rd r ≠ .reset := by simp [rd]

@[simp] theorem wr_core {r v} : wr r v ≠ .core := by simp [wr]

@[simp] theorem rd_core {r} : rd r ≠ .core := by simp [rd]

@[simp] theorem reset_wr {r v} : .reset ≠ wr r v := by simp [wr]

@[simp] theorem core_wr {r v} : .core ≠ wr r v := by simp [wr]

@[simp] theorem ent_wr {r v n a} : .ent n a ≠ wr r v := by simp [wr]

@[simp] theorem bulk_wr {r v n a} : .bulk n a ≠ wr r v := by simp [wr]

/-- A CORE step leaves TS, CTX, CFG, the window's answer, the inputs, ERR and OVR as they are. -/
theorem CoreMove.frame {s t : State} {i} (h : CoreMove s i t) : t.ts = s.ts ∧ t.ctx = s.ctx ∧ t.cfg = s.cfg ∧ t.response = s.response ∧ t.inputs = s.inputs ∧ t.draws = s.draws ∧ t.status.err = s.status.err ∧ t.status.ovr = s.status.ovr := by
  cases h
  case encConst => simp
  case encSkip => simp
  case render => simp
  case extract => simp
  case cmp => simp
  case eq => simp
  case copy => simp
  case tsWrite => simp [State.tsWriteStep]
  case entWait => simp
  case ent a hi hp ha => unfold State.entStep; cases a <;> split <;> simp [EntAnswer.mark]
  case bulkWait => simp
  case bulk a hp ha => cases a <;> simp [State.bulkStep] <;> split <;> simp

/-- A CORE step stays in its epoch. -/
theorem CoreMove.resets {s t : State} {i} (h : CoreMove s i t) : t.resets = s.resets := by
  cases h
  case tsWrite => simp [State.tsWriteStep]
  case ent a hi hp ha => unfold State.entStep; cases a <;> split <;> simp
  case bulk a hp ha => cases a <;> simp [State.bulkStep] <;> split <;> simp
  all_goals simp

/-- An issue changes STATUS and the sequencer only, and keeps OVR. -/
theorem IssueMove.frame {s t : State} {i} (h : IssueMove s i t) : t = { s with status := t.status, seq := t.seq } ∧ t.status.ovr = s.status.ovr := by
  cases h <;> exact ⟨rfl, rfl⟩

theorem entAnswers_frame (s : State) (n a) : s.entAnswers n a = { s with entAnswer := (s.entAnswers n a).entAnswer } := by
  unfold State.entAnswers; split <;> rfl

theorem bulkAnswers_frame (s : State) (n a) : s.bulkAnswers n a = { s with bulkAnswer := (s.bulkAnswers n a).bulkAnswer } := by
  unfold State.bulkAnswers; split <;> rfl

theorem stored_iff (r : Reg) : (r = .cmd ∨ Reg.stored r = true) ↔ (r = .cmd ∨ r = .tsLo ∨ r = .tsHi ∨ r = .ctxLo ∨ r = .ctxHi ∨ ∃ d j, r = .slotWord d j) := by
  cases r <;> simp [Reg.stored]

/-- `step_move` with the input named as the statements of Safety name it. -/
theorem step_inputMove {s t : State} (h : step s = .next t) : ∃ (e : Input) (rest : List Input), InputMove { s with inputs := rest } e t ∧
    (∀ r v, s.hostWrites r v ↔ e = wr r v) ∧ (s.resetComes ↔ e = .reset) ∧
    (∀ i, s.coreRuns i ↔ e = .core ∧ s.status.busy = true ∧ s.seq.running = .ok i) := by
  rcases step_move h with ⟨e, rest, hi, hm⟩ | ⟨hi, hm⟩
  · exact ⟨e, rest, hm, by simp [State.hostWrites, hi], by simp [State.resetComes, hi], by simp [State.coreRuns, hi]⟩
  · refine ⟨.core, [], ?_, by simp [State.hostWrites, hi], by simp [State.resetComes, hi], by simp [State.coreRuns, hi]⟩
    have : s = { s with inputs := [] } := by cases s; cases hi; rfl
    rwa [← this]

end Sys2Proof.Machine
end

