-- ==== Sys2Proof/Laws/PerInstr.lean ====
section
/-! SUPPORT. For each command: its fields are legal and its word matches its row of the opcode table (30_encoding R82, R83). -/

namespace Sys2Proof.Laws.TableRow

/-- The word of `i` is well formed and is the word of `i`'s own row: its fixed bits are those of the row. -/
def Statement (i : Instr) : Prop := i.wellFormed = true ∧ encode i &&& i.tableMask = i.tableMatch

theorem of_bits {i : Instr}
    (h : ∀ k, k < 32 → (i.fields.word.getLsbD k && i.tableMask.getLsbD k) = i.tableMatch.getLsbD k) : Statement i :=
  ⟨Instr.wellFormed_true i, BitVec.eq_of_getLsbD_eq fun k hk => by rw [BitVec.getLsbD_and]; exact h k hk⟩

theorem encPort (dst : SlotId) : Statement (.encPort dst) := of_bits fun k hk => by
  rw [RawCommand.word_getLsbD]; interval_cases k <;> simp [Instr.fields, Instr.tableMask, Instr.tableMatch]

theorem encConst (dst : SlotId) (imm : Byte) : Statement (.encConst dst imm) := of_bits fun k hk => by
  rw [RawCommand.word_getLsbD]; interval_cases k <;> simp [Instr.fields, Instr.tableMask, Instr.tableMatch]

theorem encSkip (dst : SlotId) : Statement (.encSkip dst) := of_bits fun k hk => by
  rw [RawCommand.word_getLsbD]; interval_cases k <;> simp [Instr.fields, Instr.tableMask, Instr.tableMatch]

theorem encBulk (dst : SlotId) : Statement (.encBulk dst) := of_bits fun k hk => by
  rw [RawCommand.word_getLsbD]; interval_cases k <;> simp [Instr.fields, Instr.tableMask, Instr.tableMatch]

theorem render (src : SlotId) : Statement (.render src) := of_bits fun k hk => by
  rw [RawCommand.word_getLsbD]; interval_cases k <;> simp [Instr.fields, Instr.tableMask, Instr.tableMatch]

theorem extract (src : SlotId) : Statement (.extract src) := of_bits fun k hk => by
  rw [RawCommand.word_getLsbD]; interval_cases k <;> simp [Instr.fields, Instr.tableMask, Instr.tableMatch]

theorem cmp (a b : SlotId) : Statement (.cmp a b) := of_bits fun k hk => by
  rw [RawCommand.word_getLsbD]; interval_cases k <;> simp [Instr.fields, Instr.tableMask, Instr.tableMatch]

theorem eq (a b : SlotId) : Statement (.eq a b) := of_bits fun k hk => by
  rw [RawCommand.word_getLsbD]; interval_cases k <;> simp [Instr.fields, Instr.tableMask, Instr.tableMatch]

theorem copy (src dst : SlotId) : Statement (.copy src dst) := of_bits fun k hk => by
  rw [RawCommand.word_getLsbD]; interval_cases k <;> simp [Instr.fields, Instr.tableMask, Instr.tableMatch]

end Sys2Proof.Laws.TableRow
end

