-- ==== Sys2Proof/Tests/Slice0.lean ====
section
/-! SUPPORT. Tests with results written out from the spec (95_test_vectors.md, 30_encoding R82, R88, 20_memory R52, 41_codec
R130 to R132), and for each statement with hypotheses a witness that meets them. -/

namespace Sys2Proof.Tests

open Sys2Proof.Machine

/-! ## Well-formedness: an ill-formed word for each check -/

theorem test_wf_opcode : RawCommand.wellFormed { op := 0xA, sa := 0, sb := 0, imm := 0, res := 0 } = false := by decide
theorem test_wf_opcode_zero : RawCommand.wellFormed { op := 0, sa := 0, sb := 0, imm := 0, res := 0 } = false := by decide
theorem test_wf_slotB : RawCommand.wellFormed { op := 0x2, sa := 0, sb := 1, imm := 0xAB, res := 0 } = false := by decide
theorem test_wf_imm : RawCommand.wellFormed { op := 0x7, sa := 0, sb := 1, imm := 1, res := 0 } = false := by decide
theorem test_wf_res : RawCommand.wellFormed { op := 0x1, sa := 0, sb := 0, imm := 0, res := 1 } = false := by decide
theorem test_wf_ok : RawCommand.wellFormed { op := 0x2, sa := 3, sb := 0, imm := 0xFF, res := 0 } = true := by decide

/-! ## Decoding: the words of V-D2 .. V-D29 -/

theorem test_decode_encPort : decodeWord 0x0000_0031 = .ok (.encPort 3) := by decide
theorem test_decode_encConst : decodeWord 0x0000_FF32 = .ok (.encConst 3 0xFF) := by decide
theorem test_decode_encSkip : decodeWord 0x0000_0023 = .ok (.encSkip 2) := by decide
theorem test_decode_encBulk : decodeWord 0x0000_0004 = .ok (.encBulk 0) := by decide
theorem test_decode_render : decodeWord 0x0000_0015 = .ok (.render 1) := by decide
theorem test_decode_extract : decodeWord 0x0000_0036 = .ok (.extract 3) := by decide
theorem test_decode_cmp : decodeWord 0x0000_00B7 = .ok (.cmp 3 2) := by decide
theorem test_decode_eq : decodeWord 0x0000_00E8 = .ok (.eq 2 3) := by decide
theorem test_decode_copy : decodeWord 0x0000_0049 = .ok (.copy 0 1) := by decide
theorem test_decode_op0 : decodeWord 0x0000_0000 = .error .reservedOpcode := by decide
theorem test_decode_opA : decodeWord 0x0000_000A = .error .reservedOpcode := by decide
theorem test_decode_opF : decodeWord 0x0000_000F = .error .reservedOpcode := by decide
theorem test_decode_slotB : decodeWord 0x0000_0041 = .error .slotBNotZero := by decide
theorem test_decode_slotB_const : decodeWord 0x0000_AB42 = .error .slotBNotZero := by decide
theorem test_decode_imm : decodeWord 0x0000_0101 = .error .immNotZero := by decide
theorem test_decode_imm_cmp : decodeWord 0x0000_0107 = .error .immNotZero := by decide
theorem test_decode_res : decodeWord 0x0001_0001 = .error .reservedBits := by decide
theorem test_decode_res31 : decodeWord 0x8000_0005 = .error .reservedBits := by decide
theorem test_encode_copy : encode (.copy 2 3) = 0x0000_00E9 := by decide
theorem test_encode_const : encode (.encConst 0 0xAB) = 0x0000_AB02 := by decide
theorem test_table_word : decodeTableWord 32 0x0000_0035 = some (.render 3) := by decide

/-! ## The register map and the words of STATUS and CFG -/

theorem test_map_tsLo : regAt 0x10 = some .tsLo := by decide
theorem test_map_resultHi : regAt 0x24 = some .resultHi := by decide
theorem test_map_slot : regAt 0x64 = some (.slotWord 2 1) := by decide
theorem test_map_lastSlot : regAt 0x7C = some (.slotWord 3 3) := by decide
theorem test_map_str6 : regAt 0x98 = some (.strWord 6) := by decide
theorem test_map_hole : regAt 0x0C = none := by decide
theorem test_map_misaligned : regAt 0x02 = none := by decide
theorem test_map_end : regAt 0x9C = none := by decide

theorem test_status_0x38 :
    Status.word { busy := false, err := .ok, degraded := true, fallback := true, ovr := true } = 0x38 := by decide
theorem test_status_0x4 :
    Status.word { busy := false, err := .invalidArg, degraded := false, fallback := false, ovr := false } = 0x4 := by decide
theorem test_cfg_0x1 : Cfg.word { entPresent := true, bulkPresent := false } = 0x1 := by decide

/-! ## The codec: R130, V-EN1, V-EP2, V-RM; the order: V-CM1, V-CM3, V-CM6 -/

/-- The bytes of V-EN1. -/
def en1 : Vector Byte 16 :=
  #v[0x00, 0x00, 0x00, 0x0F, 0x42, 0x40, 0xAB, 0xAB, 0xAB, 0xAB, 0xAB, 0xAB, 0xAB, 0xAB, 0xAB, 0xAB]

/-- The bytes of V-EP2. -/
def ep2 : Vector Byte 16 :=
  #v[0x01, 0x23, 0x45, 0x67, 0x89, 0xAB, 0x10, 0x32, 0x54, 0x76, 0x98, 0xBA, 0xDC, 0xFE, 0x01, 0x23]

/-- The 26 characters RENDER gives for the bytes `b`. -/
def rendered (b : Vector Byte 16) : List Nat := (List.range 26).map fun i => (renderByte (val128 b) i).toNat

/-- The character codes of a string. -/
def codes (t : List Char) : List Nat := t.map Char.toNat

theorem test_alphabet : alphabet.toList.map BitVec.toNat =
    codes ['0', '1', '2', '3', '4', '5', '6', '7', '8', '9', 'A', 'B', 'C', 'D', 'E', 'F', 'G', 'H', 'J', 'K', 'M', 'N',
      'P', 'Q', 'R', 'S', 'T', 'V', 'W', 'X', 'Y', 'Z'] := by decide
theorem test_render_en1 : rendered en1 =
    codes ['0', '0', '0', '0', '0', '0', 'Y', 'G', 'J', '0', 'N', 'E', 'N', 'T', 'Q', 'A', 'X', 'B', 'N', 'E', 'N', 'T',
      'Q', 'A', 'X', 'B'] := by decide
theorem test_render_ep2 : rendered ep2 =
    codes ['0', '1', '4', 'D', '2', 'P', 'F', '2', 'D', 'B', '2', '0', 'S', '5', '8', 'X', 'M', 'R', 'Q', 'B', 'E', 'F',
      'W', '0', '9', '3'] := by decide
theorem test_schedule_straddle : (schedule[3]).extract #v[0, 0x07, 0xC0, 0, 0, 0, 0, 0, 0, 0, 0, 0, 0, 0, 0, 0] = 31 := by
  decide
theorem test_cmp_ep1 : cmpResult en1
    #v[0x00, 0x00, 0x00, 0x0F, 0x42, 0x40, 0x06, 0x07, 0x08, 0x09, 0x0A, 0x0B, 0x0C, 0x0D, 0x0E, 0x0F] = 1 := by decide
theorem test_cmp_unsigned : cmpResult #v[0x7F, 0, 0, 0, 0, 0, 0, 0, 0, 0, 0, 0, 0, 0, 0, 0]
    #v[0x80, 0, 0, 0, 0, 0, 0, 0, 0, 0, 0, 0, 0, 0, 0, 0] = 0xFFFF_FFFF_FFFF_FFFF := by decide
theorem test_eq_same : eqResult en1 en1 = 1 := by decide
theorem test_cmp_equal : cmpResult en1 en1 = 0 := by decide
theorem test_ts48_en1 : ts48 en1 = 0x00F_4240 := by decide

/-! ## Steps -/

/-- The machine after reset with both ports present, and TS = 1_000_000 written. -/
def idle : State :=
  { State.afterReset { entPresent := true, bulkPresent := true } 0 0 [] with
    ts := { lo := .written 0x000F_4240, hi := .written 0 }, ctx := { lo := .written 0xCAFE_F00D, hi := .written 0 } }

/-- The same without a port. -/
def noPorts : State := { idle with cfg := { entPresent := false, bulkPresent := false } }

/-- `idle` with `l` still to happen. -/
def withInputs (l : List Input) : State := { idle with inputs := l }

/-- `idle` with slots S0 and S1 written. -/
def filled (a b : Vector Byte 16) : State := (idle.setSlot 0 (Vector.ofFn fun k => .written a[k])).setSlot 1 (Vector.ofFn fun k => .written b[k])

/-- `s` with the command `i` running in `phase`. -/
def running (i : Instr) (phase : Phase) (s : State) : State := s.accept i phase

/-- The state an outcome gives, `idle` where it gives none. -/
def after : Host.Outcome State Fault Refusal → State
  | .next t => t
  | .fault _ => idle
  | .refused _ => idle

/-- Bytes `k` to `k + n - 1` of slot `d`, as numbers. -/
def bytesOf (s : State) (d : SlotId) : List Byte := (s.slotBytes d).toList

theorem test_issue_const : (after (step (withInputs [wr .cmd 0x0000_AB02]))).status.word = 0x1 := by decide
theorem test_const : bytesOf (after (exec (.encConst 0 0xAB) (running (.encConst 0 0xAB) .exec idle))) 0 = en1.toList := by
  decide
theorem test_port_refused : (after (step { noPorts with inputs := [wr .cmd 0x0000_0011] })).status.word = 0x4 := by decide
theorem test_illegal : (after (step (withInputs [wr .cmd 0x0000_000A]))).status.word = 0x2 := by decide
theorem test_bulk_absent : (after (step { idle with
    cfg := { entPresent := true, bulkPresent := false }, inputs := [wr .cmd 0x0000_0004] })).status.word = 0x11 := by decide
theorem test_ovr_kept : (after (step { idle with
    status := { busy := false, err := .ok, degraded := true, fallback := true, ovr := true },
    inputs := [wr .cmd 0x0000_0005] })).status.word = 0x21 := by decide
theorem test_overrun : (after (step { running (.encPort 1) .entWait idle with
    inputs := [wr .cmd 0x0000_0000] })).status.word = 0x21 := by decide
theorem test_clear_ovr : (after (step { idle with
    status := { busy := false, err := .ok, degraded := false, fallback := false, ovr := true },
    inputs := [wr .status 0xFFFF_FFDF] })).status.word = 0x20 := by decide
theorem test_port_request : (running (.encPort 1) .entWait idle).entRequest = some 0x0000_0000_CAFE_F00D := by decide
theorem test_port_fail : (after (exec (.encPort 1)
    { running (.encPort 1) .entWait idle with entAnswer := some .fail })).status.word = 0x9 := by decide
theorem test_bulk_partial : (after (exec (.encBulk 0)
    { running (.encBulk 0) .bulkWait idle with bulkAnswer := some (.got 4 (Vector.replicate 10 0xDE)) })).status.word = 0x11 := by
  decide
theorem test_extract : (after (exec (.extract 0) (running (.extract 0) .exec (filled en1 en1)))).result.val = 0x000F_4240 := by
  decide
theorem test_cmp : (after (exec (.cmp 0 1) (running (.cmp 0 1) .exec (filled en1 ep2)))).result.val = 0xFFFF_FFFF_FFFF_FFFF := by
  decide
theorem test_eq : (after (exec (.eq 0 1) (running (.eq 0 1) .exec (filled en1 en1)))).result.val = 1 := by decide
theorem test_copy : bytesOf (after (exec (.copy 1 3) (running (.copy 1 3) .exec (filled en1 ep2)))) 3 = ep2.toList := by decide
theorem test_copy_unwritten : ((after (exec (.copy 0 1) (running (.copy 0 1) .exec idle))).slot 1)[0].isWritten = false := by
  decide
theorem test_skip : ((bytesOf (after (exec (.encSkip 1) (running (.encSkip 1) .exec (filled en1 ep2)))) 1).drop 5).take 2 =
    [0x40, 0x10] := by decide
theorem test_render : strWord (after (exec (.render 0) (running (.render 0) .exec (filled en1 en1)))).str 2 = 0x4A30_4E45 := by
  decide
theorem test_render_pad : strWord (after (exec (.render 0) (running (.render 0) .exec (filled en1 en1)))).str 6 = 0x5842_0000 := by
  decide

/-! ## Witnesses: for each statement with hypotheses, a state and operands that meet them, clause by clause -/

/-- ENC.PORT S1 waiting for the byte of index 6. -/
def waiting : State :=
  { running (.encPort 1) .entWait idle with
    seq := { (running (.encPort 1) .entWait idle).seq with k := 6 } }

/-- ENC.BULK S0 waiting for the bulk port. -/
def bulkWaiting : State := running (.encBulk 0) .bulkWait idle

/-- The same two after one reset: a new request is outstanding. -/
def restarted : State := { waiting with resets := 1 }
def bulkRestarted : State := { bulkWaiting with resets := 1 }

/-- `s` with `l` still to happen. -/
def next (l : List Input) (s : State) : State := { s with inputs := l }

theorem witness_EncodeOfDecode : decodeWord 0x0000_AB02 = .ok (.encConst 0 0xAB) := by decide

/-- Each clause at a boundary value: the lowest and the highest bit of RES, SB and IMM8 of each group, and the reserved
opcodes at both ends. -/
theorem witness_MustBeZeroFieldsAndReservedOpcodes :
    (0x0001_0001 : Word).extractLsb' 16 16 ≠ 0 ∧ (0x8000_0005 : Word).extractLsb' 16 16 ≠ 0 ∧
    ((0x0000_0041 : Word).extractLsb' 0 4).toNat = 0x1 ∧ (0x0000_0041 : Word).extractLsb' 6 2 ≠ 0 ∧
    ((0x0000_8003 : Word).extractLsb' 0 4).toNat = 0x3 ∧ (0x0000_8003 : Word).extractLsb' 8 8 ≠ 0 ∧
    ((0x0000_0104 : Word).extractLsb' 0 4).toNat = 0x4 ∧ (0x0000_0104 : Word).extractLsb' 8 8 ≠ 0 ∧
    ((0x0000_00C5 : Word).extractLsb' 0 4).toNat = 0x5 ∧ (0x0000_00C5 : Word).extractLsb' 6 2 ≠ 0 ∧
    ((0x0000_0106 : Word).extractLsb' 0 4).toNat = 0x6 ∧ (0x0000_0106 : Word).extractLsb' 8 8 ≠ 0 ∧
    ((0x0000_AB42 : Word).extractLsb' 0 4).toNat = 0x2 ∧ (0x0000_AB42 : Word).extractLsb' 6 2 ≠ 0 ∧
    ((0x0000_0107 : Word).extractLsb' 0 4).toNat = 0x7 ∧ (0x0000_0107 : Word).extractLsb' 8 8 ≠ 0 ∧
    ((0x0000_8008 : Word).extractLsb' 0 4).toNat = 0x8 ∧ (0x0000_8008 : Word).extractLsb' 8 8 ≠ 0 ∧
    ((0x0000_0109 : Word).extractLsb' 0 4).toNat = 0x9 ∧ (0x0000_0109 : Word).extractLsb' 8 8 ≠ 0 ∧
    ((0x0000_0000 : Word).extractLsb' 0 4).toNat = 0x0 ∧ 0xA ≤ ((0x0000_000A : Word).extractLsb' 0 4).toNat ∧
    0xA ≤ ((0x0000_000F : Word).extractLsb' 0 4).toNat := by decide

theorem witness_WordsMatchTheirTableRow :
    decodeWord 0x0000_0031 = .ok (.encPort 3) ∧
    (0x0000_0031 : Word) &&& (Instr.encPort 0).tableMask = (Instr.encPort 0).tableMatch ∧
    (0x0000_0031 : Word) &&& (Instr.encPort 3).tableMask = (Instr.encPort 3).tableMatch := by decide

theorem witness_RegisterMapIsR52 : regAt 0x98 = some (.strWord 6) ∧ regAt 0x00 = some .cmd := by decide

/-- Each reason for a bus error at its boundary offsets, read and write. -/
theorem witness_BusErrorChangesNothing :
    (next [.host (.read 0x40 1)] idle).inputs = .host (.read 0x40 1) :: [] ∧ (1 : Nat) ≠ 4 ∧
    (next [.host (.write 0x9C 4 5)] waiting).inputs = .host (.write 0x9C 4 5) :: [] ∧
    (0x9C : BitVec 8).toNat = 0x9C ∧ (0xFC : BitVec 8).toNat = 0xFC ∧ (0x02 : BitVec 8).toNat % 4 ≠ 0 ∧
    (0x0C : BitVec 8).toNat = 0x0C ∧ 0x28 ≤ (0x28 : BitVec 8).toNat ∧ (0x3C : BitVec 8).toNat ≤ 0x3C := by decide

theorem witness_ReadsHaveNoSideEffect :
    (next [rd (.slotWord 1 0)] waiting).inputs = rd (.slotWord 1 0) :: [] ∧ waiting.status.busy = true ∧
    (next [rd .tsLo] waiting).inputs = rd .tsLo :: [] ∧ Reg.hiddenWhileBusy .tsLo = false ∧
    (next [rd (.strWord 6)] idle).inputs = rd (.strWord 6) :: [] ∧ idle.status.busy = false := by decide

theorem witness_SlotWordsAreBigEndian :
    idle.status.busy = false ∧ (next [rd (.slotWord 3 3)] idle).inputs = rd (.slotWord 3 3) :: [] ∧
    (next [wr (.slotWord 0 0) 0x0000_000F] idle).inputs = wr (.slotWord 0 0) 0x0000_000F :: [] := by decide

theorem witness_StringWordsAreBigEndian :
    idle.status.busy = false ∧ (next [rd (.strWord 6)] idle).inputs = rd (.strWord 6) :: [] ∧
    (next [rd (.strWord 0)] idle).inputs = rd (.strWord 0) :: [] := by decide

theorem witness_HalvesOf64BitRegisters :
    idle.status.busy = false ∧ (next [wr .tsLo 5] idle).inputs = wr .tsLo 5 :: [] ∧
    (next [wr .tsHi 5] idle).inputs = wr .tsHi 5 :: [] ∧ (next [wr .ctxLo 5] idle).inputs = wr .ctxLo 5 :: [] ∧
    (next [wr .ctxHi 5] idle).inputs = wr .ctxHi 5 :: [] := by decide

theorem witness_StatusBitsAndWrite :
    (next [rd .status] waiting).inputs = rd .status :: [] ∧
    (next [wr .status 0x20] waiting).inputs = wr .status 0x20 :: [] ∧
    (next [wr .status 0xFFFF_FFDF] idle).inputs = wr .status 0xFFFF_FFDF :: [] := by decide

theorem witness_AccessesWhileBusy :
    waiting.status.busy = true ∧ (next [wr .cmd 5] waiting).inputs = wr .cmd 5 :: [] ∧
    (next [wr .ctxHi 5] waiting).inputs = wr .ctxHi 5 :: [] ∧
    (next [wr (.slotWord 2 0) 1] waiting).inputs = wr (.slotWord 2 0) 1 :: [] ∧
    (next [wr .status 0x20] waiting).inputs = wr .status 0x20 :: [] ∧
    (next [wr .cfg 3] waiting).inputs = wr .cfg 3 :: [] ∧
    (next [wr (.strWord 6) 1] waiting).inputs = wr (.strWord 6) 1 :: [] ∧
    (next [rd .status] waiting).inputs = rd .status :: [] ∧ (next [rd .ctxHi] waiting).inputs = rd .ctxHi :: [] ∧
    (next [rd .resultLo] waiting).inputs = rd .resultLo :: [] ∧
    (next [rd (.slotWord 1 0)] waiting).inputs = rd (.slotWord 1 0) :: [] ∧
    (next [rd (.strWord 0)] waiting).inputs = rd (.strWord 0) :: [] ∧
    (next [.host (.read 0x9C 4)] waiting).inputs = .host (.read 0x9C 4) :: [] ∧ regAt 0x9C = none := by decide

theorem witness_CmdReadsZeroAndReadOnlyIgnoreWrites :
    (next [rd .cmd] waiting).inputs = rd .cmd :: [] ∧ (next [wr .cfg 3] idle).inputs = wr .cfg 3 :: [] ∧
    (next [wr .resultHi 1] waiting).inputs = wr .resultHi 1 :: [] ∧
    (next [wr (.strWord 0) 1] idle).inputs = wr (.strWord 0) 1 :: [] := by decide

/-- One write for each branch: not admitted, refused by BUSY, an illegal word, no port, accepted, another register. -/
theorem witness_PriorityOfCauses :
    (next [.host (.write 0x0C 4 0)] waiting).inputs = .host (.write 0x0C 4 0) :: [] ∧ regAt 0x0C = none ∧
    (next [.host (.write 0x00 4 0)] waiting).inputs = .host (.write 0x00 4 0) :: [] ∧ regAt 0x00 = some .cmd ∧
    waiting.status.busy = true ∧
    (next [.host (.write 0x00 4 0)] noPorts).inputs = .host (.write 0x00 4 0) :: [] ∧ noPorts.status.busy = false ∧
    decodeWord 0 = .error .reservedOpcode ∧
    (next [.host (.write 0x00 4 0x11)] noPorts).inputs = .host (.write 0x00 4 0x11) :: [] ∧
    decodeWord 0x11 = .ok (.encPort 1) ∧ noPorts.cfg.entPresent = false ∧ idle.cfg.entPresent = true ∧
    (next [.host (.write 0x10 4 5)] idle).inputs = .host (.write 0x10 4 5) :: [] ∧ regAt 0x10 = some .tsLo := by decide

theorem witness_StepRunsTheDecodedCommand :
    (next [wr .cmd 0x35] idle).inputs = wr .cmd 0x35 :: [] ∧ idle.status.busy = false ∧ decodeWord 0x35 = .ok (.render 3) ∧
    (next [.core] waiting).inputs = .core :: [] ∧ waiting.status.busy = true ∧ waiting.seq.running = .ok (.encPort 1) ∧
    waiting.inputs = [] := by decide

theorem witness_PlacedWordIsIssued : decodeTableWord 32 0x0000_00E9 = some (.copy 2 3) := by decide

theorem witness_IssueLatchesOperands :
    (next [wr .cmd 0x35] noPorts).inputs = wr .cmd 0x35 :: [] ∧ noPorts.status.busy = false ∧
    decodeWord 0x35 = .ok (.render 3) ∧ Instr.singleStep (.render 3) = true ∧
    (next [wr .cmd 0x11] idle).inputs = wr .cmd 0x11 :: [] ∧ idle.status.busy = false ∧
    decodeWord 0x11 = .ok (.encPort 1) ∧ decodeWord 0x04 = .ok (.encBulk 0) ∧ idle.cfg.entPresent = true := by decide

theorem witness_CommandErrorsOnlySetErr :
    (next [wr .cmd 0x0A] noPorts).inputs = wr .cmd 0x0A :: [] ∧ noPorts.status.busy = false ∧
    decodeWord 0x0A = .error .reservedOpcode ∧
    decodeWord 0x11 = .ok (.encPort 1) ∧ decodeWord 0x04 = .ok (.encBulk 0) ∧ noPorts.cfg.entPresent = false := by decide

theorem witness_StatusReadAfterCmdSeesIt :
    (next [wr .cmd 0x35, rd .status] idle).inputs = wr .cmd 0x35 :: rd .status :: [] ∧ idle.status.busy = false ∧
    decodeWord 0x35 = .ok (.render 3) ∧ Instr.singleStep (.render 3) = true := by decide

/-- The hypotheses of `IssuedInto` and of the completing CORE step, for the seven commands of one CORE step. -/
theorem witness_SingleStepCommands :
    idle.status.busy = false ∧
    ∀ i : Instr, (running i .exec idle).status.busy = true ∧ (running i .exec idle).seq.phase = .exec :=
  ⟨by decide, fun _ => ⟨rfl, rfl⟩⟩

/-- ENC.CONST. -/
theorem witness_EncConstCommand :
    (running (.encConst 0 0xAB) .exec idle).status.busy = true ∧
    (running (.encConst 0 0xAB) .exec idle).seq.phase = .exec := by decide

/-- ENC.SKIP. -/
theorem witness_EncSkipCommand :
    (running (.encSkip 1) .exec idle).status.busy = true ∧ (running (.encSkip 1) .exec idle).seq.phase = .exec := by decide

/-- RENDER. -/
theorem witness_RenderCommand :
    (running (.render 3) .exec idle).status.busy = true ∧ (running (.render 3) .exec idle).seq.phase = .exec := by decide

/-- EXTRACT. -/
theorem witness_ExtractCommand :
    (running (.extract 0) .exec idle).status.busy = true ∧ (running (.extract 0) .exec idle).seq.phase = .exec := by decide

/-- CMP: equal slots, and slots that first differ at byte 0 and at byte 15, either way. -/
theorem witness_CmpCommand :
    (running (.cmp 0 1) .exec (filled en1 en1)).status.busy = true ∧
    (running (.cmp 0 1) .exec (filled en1 en1)).seq.phase = .exec ∧
    (filled en1 en1).slotBytes 0 = (filled en1 en1).slotBytes 1 ∧
    ((filled en1 ep2).slotBytes 0)[(0 : Fin 16)].toNat < ((filled en1 ep2).slotBytes 1)[(0 : Fin 16)].toNat ∧
    (∀ i : Fin 16, i < 15 →
      ((filled en1 (en1.set 15 0xAC)).slotBytes 0)[i] = ((filled en1 (en1.set 15 0xAC)).slotBytes 1)[i]) ∧
    ((filled en1 (en1.set 15 0xAC)).slotBytes 0)[(15 : Fin 16)].toNat <
      ((filled en1 (en1.set 15 0xAC)).slotBytes 1)[(15 : Fin 16)].toNat := by decide

/-- EQ: equal slots, and slots that differ in byte 15 only. -/
theorem witness_EqCommand :
    (running (.eq 0 1) .exec (filled en1 en1)).status.busy = true ∧
    (running (.eq 0 1) .exec (filled en1 en1)).seq.phase = .exec ∧
    (∀ j : Fin 16, ((filled en1 en1).slotBytes 0)[j] = ((filled en1 en1).slotBytes 1)[j]) ∧
    ((filled en1 (en1.set 15 0xAC)).slotBytes 0)[(15 : Fin 16)] ≠
      ((filled en1 (en1.set 15 0xAC)).slotBytes 1)[(15 : Fin 16)] := by decide

/-- COPY. -/
theorem witness_CopyCommand :
    (running (.copy 2 3) .exec idle).status.busy = true ∧ (running (.copy 2 3) .exec idle).seq.phase = .exec := by decide

/-- ENC.PORT: issue with and without the port, TSWRITE, the wait, and an answer to the first and to the last request. -/
theorem witness_EncPortCommand :
    idle.status.busy = false ∧ idle.cfg.entPresent = true ∧ noPorts.status.busy = false ∧ noPorts.cfg.entPresent = false ∧
    (running (.encPort 1) .tsWrite idle).status.busy = true ∧ (running (.encPort 1) .tsWrite idle).seq.phase = .tsWrite ∧
    waiting.status.busy = true ∧ waiting.seq.phase = .entWait ∧ waiting.entAnswer = none ∧ waiting.seq.k = 6 ∧
    ({ waiting with entAnswer := some (.byte 6) } : State).entAnswer = some (.byte 6) ∧
    ({ waiting with seq := { waiting.seq with k := 15 } } : State).seq.k = 15 := by decide

/-- ENC.BULK: issue with each port, the wait, ten bytes, and each kind of answer that falls back. -/
theorem witness_EncBulkCommand :
    idle.status.busy = false ∧ idle.cfg.entPresent = true ∧ idle.cfg.bulkPresent = true ∧
    noPorts.cfg.entPresent = false ∧ noPorts.status.busy = false ∧
    bulkWaiting.status.busy = true ∧ bulkWaiting.seq.phase = .bulkWait ∧ bulkWaiting.bulkAnswer = none ∧
    (∀ b, BulkAnswer.fail ≠ .got 10 b) ∧ (∀ b, BulkAnswer.got 9 (Vector.replicate 10 1) ≠ .got 10 b) ∧
    (∀ b, BulkAnswer.got 0 (Vector.replicate 10 1) ≠ .got 10 b) ∧
    (running (.encBulk 0) .tsWrite idle).status.busy = true ∧ (running (.encBulk 0) .tsWrite idle).seq.phase = .tsWrite := by
  refine ⟨rfl, rfl, rfl, rfl, rfl, rfl, rfl, rfl, ?_, ?_, ?_, rfl, rfl⟩ <;> intro b h <;> simp at h

theorem witness_FallbackIsEncPort :
    (running (.encBulk 0) .tsWrite idle).status.busy = true ∧ (running (.encBulk 0) .tsWrite idle).seq.phase = .tsWrite ∧
    (running (.encBulk 0) .entWait idle).status.busy = true ∧ (running (.encBulk 0) .entWait idle).seq.phase = .entWait := by
  decide

/-- A refused write, and a STATUS write with bit 5 set. -/
theorem witness_OvrIsSticky :
    (∃ t, step (next [wr .tsLo 5] waiting) = .next t ∧ t.status.ovr = true) ∧
    (∃ t, step (next [wr .status 0x20] idle) = .next t ∧ t.status.ovr = false) := by
  refine ⟨⟨_, rfl, ?_⟩, ⟨_, rfl, ?_⟩⟩ <;> decide

/-- A legal word, an illegal one, a reset, and a turn of CORE. -/
theorem witness_ErrIsTheOutcomeOfTheLastCmdWrite :
    (∃ t, step (next [wr .cmd 0x11] noPorts) = .next t ∧ (next [wr .cmd 0x11] noPorts).hostWrites .cmd 0x11) ∧
    decodeWord 0x11 = .ok (.encPort 1) ∧ noPorts.status.busy = false ∧
    (∃ t, step (next [wr .cmd 0x0A] idle) = .next t ∧ (next [wr .cmd 0x0A] idle).hostWrites .cmd 0x0A) ∧
    decodeWord 0x0A = .error .reservedOpcode ∧
    (∃ t, step (next [.reset] waiting) = .next t ∧ (next [.reset] waiting).resetComes) ∧
    (∃ t, step (next [.core] idle) = .next t) ∧ ¬ (next [.core] idle).resetComes :=
  ⟨⟨_, rfl, rfl⟩, by decide, rfl, ⟨_, rfl, rfl⟩, by decide, ⟨_, rfl, rfl⟩, ⟨_, rfl⟩, by intro h; cases h⟩

/-- A CMD write, a reset, and a turn of CORE that takes a failed answer. -/
theorem witness_DegradedMarksAFailedByte :
    (∃ t, step (next [wr .cmd 0x35] idle) = .next t ∧ (next [wr .cmd 0x35] idle).hostWrites .cmd 0x35) ∧
    (∃ t, step (next [.reset] waiting) = .next t ∧ (next [.reset] waiting).resetComes) ∧
    (∃ t, step (next [.core] { waiting with entAnswer := some .fail }) = .next t ∧ t.status.degraded = true) :=
  ⟨⟨_, rfl, rfl⟩, ⟨_, rfl, rfl⟩, ⟨_, rfl, rfl⟩⟩

/-- An ENC.BULK issued with the port absent, a reset, and a failed bulk answer taken. -/
theorem witness_FallbackMarksABulkThatFellBack :
    (∃ t, step (next [wr .cmd 0x04] { idle with cfg := { entPresent := true, bulkPresent := false } }) = .next t ∧
      t.status.fallback = true) ∧
    (∃ t, step (next [.reset] waiting) = .next t ∧ (next [.reset] waiting).resetComes) ∧
    (∃ t, step (next [.core] { bulkWaiting with bulkAnswer := some .fail }) = .next t ∧ t.status.fallback = true) :=
  ⟨⟨_, rfl, rfl⟩, ⟨_, rfl, rfl⟩, ⟨_, rfl, rfl⟩⟩

/-- EXTRACT changes an unwritten RESULT. -/
theorem witness_ResultWrittenByThreeCommands :
    (after (step (next [.core] (running (.extract 0) .exec idle)))).result.lo.isWritten = true ∧
    idle.result.lo.isWritten = false := by decide

/-- RENDER changes an unwritten STR. -/
theorem witness_StrWrittenByRenderWhole :
    (after (step (next [.core] (running (.render 0) .exec idle)))).str[26].isWritten = true ∧
    idle.str[26].isWritten = false := by decide

/-- A host write, and a COPY, change a slot. -/
theorem witness_SlotsWrittenByTheirWriters :
    ((after (step (next [wr (.slotWord 2 1) 5] idle))).slot 2)[7].isWritten = true ∧ (idle.slot 2)[7].isWritten = false ∧
    ((after (step (next [.core] (running (.copy 1 3) .exec (filled en1 ep2))))).slot 3)[15].isWritten = true ∧
    ((filled en1 ep2).slot 3)[15].isWritten = false := by decide

/-- A host write changes a half of TS and of CTX. -/
theorem witness_TsAndCtxWrittenByHostOnly :
    (after (step (next [wr .tsHi 7] idle))).ts ≠ idle.ts ∧ (after (step (next [wr .ctxLo 7] idle))).ctx ≠ idle.ctx := by decide

theorem witness_CfgIsTheTieOffs : ∃ t, step (next [wr .cfg 0] idle) = .next t := ⟨_, rfl⟩

/-- An answer of this epoch and of another, with a request outstanding and with none, on each port. -/
theorem witness_AnswersWithoutRequestAreIgnored :
    (next [.ent 0 (.byte 6)] waiting).inputs = .ent 0 (.byte 6) :: [] ∧ waiting.entRequest ≠ none ∧
    idle.entRequest = none ∧ waiting.resets = 0 ∧ restarted.entRequest ≠ none ∧ restarted.resets ≠ 0 ∧
    (next [.bulk 0 .fail] bulkWaiting).inputs = .bulk 0 .fail :: [] ∧ bulkWaiting.bulkRequest ≠ none ∧
    idle.bulkRequest = none ∧ bulkWaiting.resets = 0 ∧ bulkRestarted.bulkRequest ≠ none ∧ bulkRestarted.resets ≠ 0 := by
  decide

/-- A reset while an ENC.PORT waits; after it another one waits, and then a late answer comes, on each port. -/
theorem witness_LateAnswersAreIgnored :
    (next [.reset] waiting).resetComes ∧ ¬ idle.resetComes ∧ (∃ t, step idle = .next t) ∧
    (∃ u, step (next [.reset, cmdInput (.encPort 1), .core, .ent 0 (.byte 6)] waiting) = .next u ∧
      ∃ t, Host.Core.run core 2 u = .next t ∧ t.entRequest ≠ none ∧ t.inputs = .ent 0 (.byte 6) :: []) ∧
    (∃ u, step (next [.reset, cmdInput (.encBulk 0), .bulk 0 .fail] bulkWaiting) = .next u ∧
      ∃ t, Host.Core.run core 1 u = .next t ∧ t.bulkRequest ≠ none ∧ t.inputs = .bulk 0 .fail :: []) ∧
    0 ≤ waiting.resets :=
  ⟨rfl, by unfold State.resetComes; decide, ⟨_, rfl⟩, ⟨_, rfl, _, rfl, by decide, rfl⟩, ⟨_, rfl, _, rfl, by decide, rfl⟩, by decide⟩

/-- R221: with a new request outstanding, a late answer is not held; the answer of this epoch is. -/
theorem test_late_ent : (after (step (next [.ent 0 (.byte 6)] restarted))).entAnswer = none ∧
    (after (step (next [.ent 1 (.byte 6)] restarted))).entAnswer = some (.byte 6) := by decide
theorem test_late_bulk : (after (step (next [.bulk 0 .fail] bulkRestarted))).bulkAnswer = none ∧
    (after (step (next [.bulk 1 .fail] bulkRestarted))).bulkAnswer = some .fail := by decide

theorem witness_ResetLeavesDataUnwritten : (next [.reset] waiting).inputs = .reset :: [] := by decide

/-- The invariant in the middle of an ENC.PORT and of an ENC.BULK, with a step to take. -/
theorem witness_EveryStepKeepsInv :
    (next [.ent 0 .fail] waiting).Inv ∧ (∃ t, step (next [.ent 0 .fail] waiting) = .next t) ∧ bulkWaiting.Inv := by
  refine ⟨?_, ⟨_, rfl⟩, ?_⟩
  · constructor
    case exec_runs => exact fun h => by cases h
    case port_runs => exact fun _ => ⟨.inl ⟨1, rfl⟩, rfl⟩
    case bulk_runs => exact fun h => by cases h
    all_goals decide
  · constructor
    case exec_runs => exact fun h => by cases h
    case port_runs => exact fun h => by rcases h with h | h <;> cases h
    case bulk_runs => exact fun _ => ⟨⟨0, rfl⟩, rfl, rfl, rfl, rfl, rfl⟩
    all_goals decide

/-- The invariant in phase EXEC. -/
theorem witness_NoStepStops : (running (.copy 1 3) .exec idle).Inv := by
  constructor
  case exec_runs => exact fun _ => ⟨⟨_, rfl, rfl⟩, rfl, rfl⟩
  case port_runs => exact fun h => by rcases h with h | h <;> cases h
  case bulk_runs => exact fun h => by cases h
  all_goals decide

theorem witness_UnansweredCommandHangs :
    restarted.status.busy = true ∧ restarted.seq.phase = .entWait ∧ restarted.entAnswer = none ∧
    restarted.seq.running = .ok (.encPort 1) ∧ restarted.resets = 1 ∧
    ∀ e ∈ (next [rd .status, .core, .ent 0 .fail, wr .cmd 5] restarted).inputs, e ≠ .reset ∧ ∀ a, e ≠ .ent 1 a := by
  refine ⟨rfl, rfl, rfl, rfl, rfl, ?_⟩
  simp [next, rd, wr]

/-- The answers of V-EP3. -/
def ep3 : Vector EntAnswer 10 :=
  #v[.byte 0x11, .fail, .byte 0x13, .byte 0x14, .byte 0x15, .byte 0x16, .byte 0x17, .byte 0x18, .byte 0x19, .byte 0x1A]

theorem witness_EncPortRun :
    idle.status.busy = false ∧ idle.cfg.entPresent = true ∧ idle.entAnswer = none ∧
    (next (cmdInput (.encPort 1) :: .core :: (ep3.toList.flatMap fun x => [.ent idle.resets x, .core]) ++ []) idle).inputs =
      cmdInput (.encPort 1) :: .core :: (ep3.toList.flatMap fun x => [.ent idle.resets x, .core]) ++ [] := ⟨rfl, rfl, rfl, rfl⟩

theorem witness_EncBulkFallbackRun :
    idle.status.busy = false ∧ idle.cfg.entPresent = true ∧ idle.cfg.bulkPresent = true ∧ idle.entAnswer = none ∧
    idle.bulkAnswer = none ∧ (∀ b, BulkAnswer.got 4 (Vector.replicate 10 0xDE) ≠ .got 10 b) ∧
    (next (cmdInput (.encBulk 0) :: .bulk idle.resets (.got 4 (Vector.replicate 10 0xDE)) :: .core :: .core ::
        (ep3.toList.flatMap fun x => [.ent idle.resets x, .core]) ++ []) idle).inputs =
      cmdInput (.encBulk 0) :: .bulk idle.resets (.got 4 (Vector.replicate 10 0xDE)) :: .core :: .core ::
        (ep3.toList.flatMap fun x => [.ent idle.resets x, .core]) ++ [] :=
  ⟨rfl, rfl, rfl, rfl, rfl, by intro b h; simp at h, rfl⟩

/-- Two states whose RESULT is unwritten under two tags: CMP of two written slots running, and ENC.PORT to issue. -/
theorem witness_UnwrittenDataElsewhereDoNotMatter :
    Instr.singleStep (.cmp 0 1) = true ∧ (running (.cmp 0 1) .exec (filled en1 ep2)).status.busy = true ∧
    (running (.cmp 0 1) .exec (filled en1 ep2)).seq.phase = .exec ∧
    (running (.cmp 0 1) .exec (filled en1 ep2)).slotOperandsWritten (.cmp 0 1) = true ∧
    (running (.cmp 0 1) .exec (filled en1 ep2)).AgreeOnWritten
      { running (.cmp 0 1) .exec (filled en1 ep2) with result := { lo := .unwritten 1000, hi := .unwritten 1001 } } ∧
    Instr.singleStep (.encPort 1) = false ∧ idle.status.busy = false ∧ idle.registerOperandsWritten (.encPort 1) = true ∧
    idle.AgreeOnWritten { idle with result := { lo := .unwritten 1000, hi := .unwritten 1001 } } :=
  ⟨rfl, rfl, rfl, by decide,
    ⟨fun _ _ => .inl rfl, .inl rfl, .inl rfl, .inl rfl, .inl rfl, .inr ⟨rfl, rfl⟩, .inr ⟨rfl, rfl⟩, fun _ => .inl rfl,
      rfl, rfl, rfl⟩,
    rfl, rfl, by decide,
    ⟨fun _ _ => .inl rfl, .inl rfl, .inl rfl, .inl rfl, .inl rfl, .inr ⟨rfl, rfl⟩, .inr ⟨rfl, rfl⟩, fun _ => .inl rfl,
      rfl, rfl, rfl⟩⟩

/-- A STATUS read of the idle block, the step after it, and the program that ends with it. -/
theorem witness_IdleAsReadUntilTheNextAccess :
    (after (step (next [rd .status] idle))).IdleAsRead ∧
    (∃ t, step (after (step (next [rd .status] idle))) = .next t) ∧
    ProgramEnded [after (step (next [rd .status] idle))] := by
  refine ⟨fun _ _ _ => rfl, ⟨_, rfl⟩, ?_, _, rfl, rfl, _, rfl, by decide⟩
  intro t ht h
  rw [List.mem_singleton.1 ht] at h
  cases h

theorem witness_EncodeThenExtractRoundTrip :
    idle.status.busy = false ∧
    (next [cmdInput (.encConst 0 0xAB), .core, cmdInput (.extract 0), .core] idle).inputs =
      cmdInput (.encConst 0 0xAB) :: .core :: cmdInput (.extract 0) :: .core :: [] := by decide

/-- The two timestamps at the ends of the range, and characters 0, 9 and 25. -/
theorem witness_PropertiesOfRender :
    (0x0000_0000_0000_FFFF_FFFF_FFFF_FFFF_FFFF : Ident).extractLsb' 80 48 = 0 ∧
    (0xFFFF_FFFF_FFFF_0000_0000_0000_0000_0000 : Ident).extractLsb' 80 48 = 0xFFFF_FFFF_FFFF ∧
    (0 < 10 ∧ 9 < 10 ∧ 25 < 26) := by decide

theorem witness_FieldPartitionOfTheString :
    ts48 en1 = ts48 (en1.set 15 0) ∧ ent80 en1 = ent80 (en1.set 0 1) ∧ (0 < 10 ∧ 9 < 10) ∧ (10 ≤ 10 ∧ 25 < 26) := by decide

theorem witness_OrderLaws :
    cmpResult en1 ep2 = 0xFFFF_FFFF_FFFF_FFFF ∧ cmpResult ep2 (ep2.set 0 2) = 0xFFFF_FFFF_FFFF_FFFF ∧
    eqResult en1 en1 = 1 := by decide

theorem witness_TimestampDominatesTheOrder : ts48 en1 < ts48 ep2 ∧ ts48 en1 = ts48 (en1.set 6 0) := by decide

end Sys2Proof.Tests
end

section
/-! SUPPORT. The invariant of the machine (10_state R37, R31; 40_encoder R103, R108): what each operation keeps of it, and
that every step keeps it (O44). -/

namespace Sys2Proof.Machine

@[simp] theorem Status.hostWrite_busy (v : Word) (t : Status) : (t.hostWrite v).busy = t.busy := by
  unfold Status.hostWrite; split <;> rfl
@[simp] theorem Status.hostWrite_err (v : Word) (t : Status) : (t.hostWrite v).err = t.err := by
  unfold Status.hostWrite; split <;> rfl
@[simp] theorem Status.hostWrite_degraded (v : Word) (t : Status) : (t.hostWrite v).degraded = t.degraded := by
  unfold Status.hostWrite; split <;> rfl
@[simp] theorem Status.hostWrite_fallback (v : Word) (t : Status) : (t.hostWrite v).fallback = t.fallback := by
  unfold Status.hostWrite; split <;> rfl
@[simp] theorem Status.hostWrite_ovr (v : Word) (t : Status) : (t.hostWrite v).ovr = (t.ovr && !v.getLsbD 5) := by
  cases h : v.getLsbD 5 <;> simp [Status.hostWrite, h, -BitVec.getLsbD_eq_getElem]

@[simp] theorem EntAnswer.mark_busy (a : EntAnswer) (t : Status) : (a.mark t).busy = t.busy := by cases a <;> rfl
@[simp] theorem EntAnswer.mark_err (a : EntAnswer) (t : Status) : (a.mark t).err = t.err := by cases a <;> rfl
@[simp] theorem EntAnswer.mark_fallback (a : EntAnswer) (t : Status) : (a.mark t).fallback = t.fallback := by
  cases a <;> rfl

@[simp] theorem Sequencer.latch_phase (i : Instr) (p : Phase) (ts ctx : Dword) (q : Sequencer) :
    (q.latch i p ts ctx).phase = p := rfl
@[simp] theorem Sequencer.latch_op (i : Instr) (p : Phase) (ts ctx : Dword) (q : Sequencer) :
    (q.latch i p ts ctx).op = i.fields.op := rfl
@[simp] theorem Sequencer.latch_fb (i : Instr) (p : Phase) (ts ctx : Dword) (q : Sequencer) :
    (q.latch i p ts ctx).fb = false := rfl

/-- The latched fields of an accepted command are read back as that command (R37, R87). -/
@[simp] theorem Sequencer.running_latch (i : Instr) (p : Phase) (ts ctx : Dword) (q : Sequencer) :
    (q.latch i p ts ctx).running = .ok i := decodeFields_fields i

theorem Sequencer.op_of_running {q : Sequencer} {i : Instr} (h : q.running = .ok i) : q.op = i.fields.op := by
  rw [decodeFields_ok h]

/-- The invariant speaks of STATUS but OVR, the sequencer, CFG and the held answers, and of nothing else. -/
theorem State.Inv.congr {s t : State} (h : s.Inv) (busy : t.status.busy = s.status.busy := by rfl)
    (err : t.status.err = s.status.err := by rfl) (degraded : t.status.degraded = s.status.degraded := by rfl)
    (fallback : t.status.fallback = s.status.fallback := by rfl) (seq : t.seq = s.seq := by rfl)
    (cfg : t.cfg = s.cfg := by rfl) (ent : t.entAnswer = s.entAnswer := by rfl)
    (bulk : t.bulkAnswer = s.bulkAnswer := by rfl) : t.Inv := by
  have hport : t.runsOnPort ↔ s.runsOnPort := by simp only [State.runsOnPort, seq, fallback]
  constructor <;> simp only [busy, err, degraded, fallback, seq, cfg, ent, bulk, hport]
  exacts [h.idle_iff, h.err_of_busy, h.exec_runs, h.port_runs, h.bulk_runs, h.index_of_wait, h.ent_answer,
    h.bulk_answer, h.fallback_of_bulk, h.degraded_of_port]

theorem State.Inv.respond {s : State} (h : s.Inv) (r : Response) : (s.respond r).Inv := h.congr
theorem State.Inv.setSlot {s : State} (h : s.Inv) (d : SlotId) (b : Slot) : (s.setSlot d b).Inv := h.congr
theorem State.Inv.setResult {s : State} (h : s.Inv) (v : Dword) : (s.setResult v).Inv := h.congr
theorem State.Inv.setStr {s : State} (h : s.Inv) (b : Str) : (s.setStr b).Inv := h.congr

theorem State.Inv.busy_of_phase {s : State} (h : s.Inv) {p : Phase} (hp : s.seq.phase = p) (hne : p ≠ .idle) :
    s.status.busy = true := by
  cases hb : s.status.busy
  · exact absurd (hp ▸ h.idle_iff.2 hb) hne
  · rfl

theorem State.Inv.noEnt {s : State} (h : s.Inv) (hp : s.seq.phase ≠ .entWait) : s.entAnswer = none :=
  Decidable.byContradiction fun ha => hp (h.ent_answer ha)

theorem State.Inv.noBulk {s : State} (h : s.Inv) (hp : s.seq.phase ≠ .bulkWait) : s.bulkAnswer = none :=
  Decidable.byContradiction fun ha => hp (h.bulk_answer ha)

/-- No command runs and no flag is set: the invariant asks only that no answer is held. -/
theorem State.Inv.of_idle {s : State} (hp : s.seq.phase = .idle) (hb : s.status.busy = false)
    (hd : s.status.degraded = false) (hf : s.status.fallback = false) (he : s.entAnswer = none)
    (hk : s.bulkAnswer = none) : s.Inv := by
  constructor <;> simp [hp, hb, hd, hf, he, hk]

theorem State.Inv.assertReset (s : State) : s.assertReset.Inv := .of_idle rfl rfl rfl rfl rfl rfl

theorem State.Inv.cmdError {s : State} (h : s.Inv) (hb : s.status.busy = false) (e : ErrCode) : (s.cmdError e).Inv := by
  have hp := h.idle_iff.2 hb
  exact .of_idle hp hb rfl rfl (h.noEnt (by simp [hp])) (h.noBulk (by simp [hp]))

/-- Completion keeps the invariant once the answers are taken. -/
theorem State.Inv.complete {s : State} (h : s.Inv) (he : s.entAnswer = none) (hk : s.bulkAnswer = none) :
    s.complete.Inv := by
  constructor <;> simp [he, hk]
  exacts [h.fallback_of_bulk, h.degraded_of_port]

theorem State.runsOnPort.congr {s t : State} (h : s.runsOnPort)
    (running : t.seq.running = s.seq.running := by rfl) (fb : t.seq.fb = s.seq.fb := by rfl)
    (fallback : t.status.fallback = s.status.fallback := by rfl) : t.runsOnPort := by
  simpa only [State.runsOnPort, running, fb, fallback] using h

theorem State.runsOnPort.op {s : State} (h : s.runsOnPort) : s.seq.op = 0x1 ∨ s.seq.op = 0x4 ∧ s.seq.fb = true := by
  rcases h with ⟨d, hr⟩ | ⟨⟨d, hr⟩, hfb, -⟩
  · exact .inl (Sequencer.op_of_running hr)
  · exact .inr ⟨Sequencer.op_of_running hr, hfb⟩

/-- TSWRITE goes on to ENTWAIT with the index 6 (R103). -/
theorem State.Inv.tsWriteStep {s : State} (h : s.Inv) (hp : s.seq.phase = .tsWrite) (d : SlotId) :
    (s.tsWriteStep d).Inv := by
  constructor <;> simp [State.tsWriteStep, h.busy_of_phase hp, h.err_of_busy, h.noBulk, hp]
  exacts [h.port_runs (.inl hp), h.fallback_of_bulk, h.degraded_of_port]

/-- Taking an answer of ENT stores a byte, marks DEGRADED, and leaves the command waiting for nothing (R103, R105). -/
theorem State.Inv.takeEnt {s : State} (h : s.Inv) (hp : s.seq.phase = .entWait) (d : SlotId) (a : EntAnswer) :
    State.Inv { s.setSlotByte d s.seq.k a.stored with entAnswer := none, status := a.mark s.status } := by
  have hport := h.port_runs (.inr hp)
  constructor <;> simp [h.busy_of_phase hp, h.err_of_busy, h.noBulk, hp]
  exacts [⟨hport.1.congr (fallback := by simp), hport.2⟩, h.index_of_wait hp, h.fallback_of_bulk, fun _ => hport.1.op]

/-- The request for the next byte: the index stays below 16 (R104). -/
theorem State.Inv.nextIndex {s : State} (h : s.Inv) (hp : s.seq.phase = .entWait) (hk : s.seq.k ≠ 15) :
    State.Inv { s with seq := { s.seq with k := s.seq.k + 1 } } := by
  have hk6 := h.index_of_wait hp
  have hval : (s.seq.k + 1).val = s.seq.k.val + 1 := Fin.val_add_one_of_lt (Fin.lt_last_iff_ne_last.2 hk)
  exact { h with
    port_runs := fun _ => ⟨(h.port_runs (.inr hp)).1.congr, (h.port_runs (.inr hp)).2⟩
    index_of_wait := fun _ => hval ▸ by omega }

/-- An answer of ENT completes the command or leads to the next request (R104). -/
theorem State.Inv.entStep {s : State} (h : s.Inv) (hp : s.seq.phase = .entWait) (d : SlotId) (a : EntAnswer) :
    (s.entStep d a).Inv := by
  have ht := h.takeEnt hp d a
  unfold State.entStep
  split
  · exact ht.complete rfl (h.noBulk (by simp [hp]))
  · exact ht.nextIndex hp ‹_›

/-- An ENC.BULK that falls back goes on as ENC.PORT does, in TSWRITE (R108, R109). -/
theorem State.Inv.fallBack {s : State} {d : SlotId} (hr : s.seq.running = .ok (.encBulk d))
    (hb : s.status.busy = true) (herr : s.status.err = .ok) (he : s.entAnswer = none) (hk : s.bulkAnswer = none)
    (hent : s.cfg.entPresent = true) : s.fallBack.Inv := by
  have hop : s.seq.op = 0x4 := Sequencer.op_of_running hr
  constructor <;> simp [hb, herr, he, hk, hent, hop]
  exact .inr ⟨⟨d, hr⟩, rfl, rfl⟩

/-- An answer of BULK completes the command or sends it into its fallback (R108). -/
theorem State.Inv.bulkStep {s : State} (h : s.Inv) (hp : s.seq.phase = .bulkWait) {d : SlotId}
    (hr : s.seq.running = .ok (.encBulk d)) (a : BulkAnswer) : (s.bulkStep d a).Inv := by
  have hb := h.busy_of_phase hp (by simp)
  have he : s.entAnswer = none := h.noEnt (by simp [hp])
  obtain ⟨-, -, hfall, hdeg, hent, -⟩ := h.bulk_runs hp
  have hback : (State.fallBack { s with bulkAnswer := none }).Inv := .fallBack hr hb (h.err_of_busy hb) he rfl hent
  cases a with
  | fail => exact hback
  | got n b =>
    simp only [State.bulkStep]
    split
    · exact .of_idle rfl rfl hdeg hfall he rfl
    · exact hback

/-- Acceptance keeps the invariant: the command is latched in a phase of its own, and no answer is held yet (R90). -/
theorem State.Inv.issue {s t : State} {i : Instr} (h : s.Inv) (hb : s.status.busy = false) (m : IssueMove s i t) :
    t.Inv := by
  have hp := h.idle_iff.2 hb
  have he : s.entAnswer = none := h.noEnt (by simp [hp])
  have hk : s.bulkAnswer = none := h.noBulk (by simp [hp])
  cases m with
  | refused _ _ _ => exact h.cmdError hb _
  | single _ hs => constructor <;> simp [he, hk, hs]
  | port d hent => constructor <;> simp [he, hk, hent, State.runsOnPort]
  | bulk d hent hbulk => constructor <;> simp [he, hk, hent, hbulk]
  | bulkAbsent d hent _ => exact .fallBack (Sequencer.running_latch _ _ _ _ _) rfl rfl he hk hent

/-- A command in EXEC completes, whatever data its effect `t` has stored (R106). -/
theorem State.Inv.complete_exec {s t : State} (h : s.Inv) (hp : s.seq.phase = .exec) (ht : t.Inv)
    (he : t.entAnswer = s.entAnswer := by simp) (hk : t.bulkAnswer = s.bulkAnswer := by simp) : t.complete.Inv :=
  ht.complete (he.trans (h.noEnt (by simp [hp]))) (hk.trans (h.noBulk (by simp [hp])))

/-- Every turn of CORE keeps the invariant. -/
theorem State.Inv.core {s t : State} {i : Instr} (h : s.Inv) (hr : s.seq.running = .ok i) (m : CoreMove s i t) :
    t.Inv := by
  cases m with
  | encConst _ _ hp => exact h.complete_exec hp (h.setSlot _ _)
  | encSkip _ hp => exact h.complete_exec hp (h.setSlot _ _)
  | render _ hp => exact h.complete_exec hp (h.setStr _)
  | extract _ hp => exact h.complete_exec hp (h.setResult _)
  | cmp _ _ hp => exact h.complete_exec hp (h.setResult _)
  | eq _ _ hp => exact h.complete_exec hp (h.setResult _)
  | copy _ _ hp => exact h.complete_exec hp (h.setSlot _ _)
  | tsWrite _ d _ hp => exact h.tsWriteStep hp d
  | entWait _ _ _ _ _ => exact h
  | ent _ d a _ hp _ => exact h.entStep hp d a
  | bulkWait _ _ _ => exact h
  | bulk d a hp _ => exact h.bulkStep hp hr a

/-- An answer of ENT is held only while a request waits for it (R165, R166). -/
theorem State.Inv.entAnswers {s : State} (h : s.Inv) (n : Nat) (a : EntAnswer) : (s.entAnswers n a).Inv := by
  unfold State.entAnswers
  split
  · rename_i hreq
    have hp : s.seq.phase = .entWait := by
      by_contra hp
      simp [State.entRequest, hp] at hreq
    exact { h with ent_answer := fun _ => hp }
  · exact h

/-- An answer of BULK is held only while a request waits for it (R171). -/
theorem State.Inv.bulkAnswers {s : State} (h : s.Inv) (n : Nat) (a : BulkAnswer) : (s.bulkAnswers n a).Inv := by
  unfold State.bulkAnswers
  split
  · rename_i hreq
    have hp : s.seq.phase = .bulkWait := by
      by_contra hp
      simp [State.bulkRequest, hp] at hreq
    exact { h with bulk_answer := fun _ => hp }
  · exact h

/-- Every input keeps the invariant: an access of the window that issues no command leaves all it speaks of. -/
theorem State.Inv.input {s t : State} {e : Input} (h : s.Inv) (m : InputMove s e t) : t.Inv := by
  cases m with
  | busError _ _ => exact h.congr
  | read _ _ _ => exact h.congr
  | overrun _ _ _ _ => exact h.congr
  | readOnly _ _ _ => exact h.congr
  | status v => exact h.congr (by simp) (by simp) (by simp) (by simp)
  | tsLo _ _ => exact h.congr
  | tsHi _ _ => exact h.congr
  | ctxLo _ _ => exact h.congr
  | ctxHi _ _ => exact h.congr
  | slotWord _ _ _ _ => exact h.congr
  | illegal _ _ hb _ => exact (h.respond .written).cmdError hb _
  | issue _ _ _ hb _ m => exact (h.respond .written).issue hb m
  | coreIdle _ => exact h
  | core _ _ _ hr m => exact h.core hr m
  | ent n a => exact h.entAnswers n a
  | bulk n a => exact h.bulkAnswers n a
  | reset => exact .assertReset s

/-- Settles O44, by cases on what the step's input can do. -/
theorem everyStepKeepsInv : Obligations.EveryStepKeepsInv := by
  intro s t h hstep
  obtain ⟨e, rest, m, -⟩ := step_inputMove hstep
  exact State.Inv.input h.congr m

end Sys2Proof.Machine
end

section
/-! SUPPORT. The registers as the host reads and writes them (10_state R28, R29, R35; 20_memory R58): O13 and O15. -/

namespace Sys2Proof.Machine

/-- A read of a register that is never hidden answers its value, in every state (R58, R60). -/
theorem step_rd {s : State} {r : Reg} {rest : List Input} (hi : s.inputs = rd r :: rest)
    (hr : r.hiddenWhileBusy = false) : step s = .next { s with inputs := rest, response := .data r (s.regValue r) } := by
  rw [step_cons hi, perform_rd]
  simp only [State.readReg, hr, Bool.and_false]
  rfl

theorem step_wr {s : State} {r : Reg} {v : Word} {rest : List Input} (hi : s.inputs = wr r v :: rest) :
    step s = ({ s with inputs := rest }).writeReg r v := by
  rw [step_cons hi, perform_wr]

theorem Status.hostWrite_eq (v : Word) (t : Status) : t.hostWrite v = { t with ovr := t.ovr && !v.getLsbD 5 } := by
  rw [Status.mk.injEq]
  simp

/-- The layout of STATUS (R29): one case for each code of ERR, and the four flags by enumeration. -/
theorem Status.word_bits (t : Status) :
    t.word.getLsbD 0 = t.busy ∧ t.word.extractLsb' 1 2 = t.err.code ∧
    t.word.getLsbD 3 = t.degraded ∧ t.word.getLsbD 4 = t.fallback ∧ t.word.getLsbD 5 = t.ovr ∧
    t.word.extractLsb' 6 26 = 0 := by
  obtain ⟨busy, err, degraded, fallback, ovr⟩ := t
  revert busy degraded fallback ovr
  cases err <;> decide

/-- Settles O13, by the layout of STATUS and its read and write. -/
theorem statusBitsAndWrite : Obligations.StatusBitsAndWrite := by
  refine ⟨fun t => ?_, fun s rest hi => step_rd hi rfl, fun s v rest hi => ?_⟩
  · obtain ⟨hbusy, herr, hrest⟩ := t.word_bits
    refine ⟨hbusy, ?_, hrest⟩
    rw [herr]
    cases t.err <;> rfl
  · rw [step_wr hi, State.writeReg, Status.hostWrite_eq]

/-- Settles O15: CMD is never hidden, and each read-only register only answers. -/
theorem cmdReadsZeroAndReadOnlyIgnoreWrites : Obligations.CmdReadsZeroAndReadOnlyIgnoreWrites := by
  refine fun s rest => ⟨fun hi => step_rd hi rfl, fun r v hi hr => ?_⟩
  rw [step_wr hi]
  rcases hr with rfl | rfl | rfl | ⟨j, rfl⟩ <;> rfl

end Sys2Proof.Machine
end

section
/-! SUPPORT. The kinds of a step, said once: a reset, a turn of CORE, a CMD write to an idle block, or an input that leaves
ERR, DEGRADED, FALLBACK and every datum but the one it stores. Who writes which field (10_state R20 to R35) follows by
cases on the kind: O32 to O40. -/

namespace Sys2Proof.Machine

/-- The data the input `e` can change when it is neither a reset nor a turn of CORE: the half or the slot word it
stores (R23 to R27). -/
structure StoresOnly (s : State) (e : Input) (t : State) : Prop where
  result : t.result = s.result
  str : t.str = s.str
  ts : t.ts = s.ts ∨ s.status.busy = false ∧ ∃ v, e = wr .tsLo v ∨ e = wr .tsHi v
  ctx : t.ctx = s.ctx ∨ s.status.busy = false ∧ ∃ v, e = wr .ctxLo v ∨ e = wr .ctxHi v
  slot (d : SlotId) : t.slot d = s.slot d ∨ s.status.busy = false ∧ ∃ j v, e = wr (.slotWord d j) v

/-- `InputMove` in five kinds. -/
inductive InputKind (s : State) : Input → State → Prop where
  | reset : InputKind s .reset s.assertReset
  | core (i t) (hb : s.status.busy = true) (hr : s.seq.running = .ok i) (m : CoreMove s i t) : InputKind s .core t
  | illegal (w e) (hb : s.status.busy = false) (hd : decodeWord w = .error e) :
      InputKind s (wr .cmd w) ((s.respond .written).cmdError .illegalCmd)
  | issue (w i t) (hb : s.status.busy = false) (hd : decodeWord w = .ok i) (m : IssueMove (s.respond .written) i t) :
      InputKind s (wr .cmd w) t
  | other (e t) (hcmd : ¬ ((∃ w, e = wr .cmd w) ∧ s.status.busy = false)) (hreset : e ≠ .reset)
      (hcore : ¬ (e = .core ∧ s.status.busy = true)) (herr : t.status.err = s.status.err)
      (hdeg : t.status.degraded = s.status.degraded) (hfall : t.status.fallback = s.status.fallback)
      (hcfg : t.cfg = s.cfg) (hdata : StoresOnly s e t) : InputKind s e t

theorem slot_of_slots {s t : State} (h : t.slots = s.slots) (d : SlotId) : t.slot d = s.slot d := by
  rw [State.slot, h, State.slot]

/-- An input that leaves all data. -/
theorem StoresOnly.of_slots {s t : State} (e : Input) (slots : t.slots = s.slots := by rfl) (ts : t.ts = s.ts := by rfl)
    (ctx : t.ctx = s.ctx := by rfl) (result : t.result = s.result := by rfl) (str : t.str = s.str := by rfl) :
    StoresOnly s e t :=
  ⟨result, str, .inl ts, .inl ctx, fun d => .inl (slot_of_slots slots d)⟩

theorem StoresOnly.slotWord {s : State} (hb : s.status.busy = false) (d : SlotId) (j : Fin 4) (v : Word) :
    StoresOnly s (wr (.slotWord d j) v) ((s.setSlot d ((s.slot d).withWord j v)).respond .written) := by
  refine ⟨rfl, rfl, .inl rfl, .inl rfl, fun e => ?_⟩
  by_cases he : e = d
  · exact .inr ⟨hb, j, v, by rw [he]⟩
  · exact .inl (slot_setSlot_other he _ s)

theorem InputMove.kind {s t : State} {e : Input} (m : InputMove s e t) : InputKind s e t := by
  cases m with
  | reset => exact .reset
  | core i _ hb hr m => exact .core i t hb hr m
  | illegal w e hb hd => exact .illegal w e hb hd
  | issue w i _ hb hd m => exact .issue w i t hb hd m
  | coreIdle hb => exact .other _ _ (by simp) (by simp) (by simp [hb]) rfl rfl rfl rfl (.of_slots _)
  | busError a h =>
    exact .other _ _ (fun ⟨⟨w, hw⟩, _⟩ => (h .cmd w).1 hw) (by simp) (by simp) rfl rfl rfl rfl (.of_slots _)
  | read r v n => exact .other _ _ (by simp) (by simp) (by simp) rfl rfl rfl rfl (.of_slots _)
  | overrun r v hb _ => exact .other _ _ (by simp [hb]) (by simp) (by simp) rfl rfl rfl rfl (.of_slots _)
  | readOnly r v hr =>
    have hcmd : r ≠ .cmd := by rintro rfl; cases hr
    exact .other _ _ (by simp [hcmd]) (by simp) (by simp) rfl rfl rfl rfl (.of_slots _)
  | status v => exact .other _ _ (by simp) (by simp) (by simp) (by simp) (by simp) (by simp) rfl (.of_slots _)
  | tsLo v hb =>
    exact .other _ _ (by simp) (by simp) (by simp) rfl rfl rfl rfl
      ⟨rfl, rfl, .inr ⟨hb, v, .inl rfl⟩, .inl rfl, fun _ => .inl rfl⟩
  | tsHi v hb =>
    exact .other _ _ (by simp) (by simp) (by simp) rfl rfl rfl rfl
      ⟨rfl, rfl, .inr ⟨hb, v, .inr rfl⟩, .inl rfl, fun _ => .inl rfl⟩
  | ctxLo v hb =>
    exact .other _ _ (by simp) (by simp) (by simp) rfl rfl rfl rfl
      ⟨rfl, rfl, .inl rfl, .inr ⟨hb, v, .inl rfl⟩, fun _ => .inl rfl⟩
  | ctxHi v hb =>
    exact .other _ _ (by simp) (by simp) (by simp) rfl rfl rfl rfl
      ⟨rfl, rfl, .inl rfl, .inr ⟨hb, v, .inr rfl⟩, fun _ => .inl rfl⟩
  | slotWord d j v hb =>
    exact .other _ _ (by simp) (by simp) (by simp) rfl rfl rfl rfl (.slotWord hb d j v)
  | ent n a =>
    rw [entAnswers_frame]
    exact .other _ _ (by simp) (by simp) (by simp) rfl rfl rfl rfl (.of_slots _)
  | bulk n a =>
    rw [bulkAnswers_frame]
    exact .other _ _ (by simp) (by simp) (by simp) rfl rfl rfl rfl (.of_slots _)

/-- `InputMove.kind` of a step, with the input named as the statements of Safety name it. -/
theorem step_kind {s t : State} (h : step s = .next t) :
    ∃ (e : Input) (rest : List Input), InputKind { s with inputs := rest } e t ∧
      (∀ r v, s.hostWrites r v ↔ e = wr r v) ∧ (s.resetComes ↔ e = .reset) ∧
      (∀ i, s.coreRuns i ↔ e = .core ∧ s.status.busy = true ∧ s.seq.running = .ok i) := by
  obtain ⟨e, rest, m, hnames⟩ := step_inputMove h
  exact ⟨e, rest, m.kind, hnames⟩

/-! ## The flags of STATUS -/

/-- An issue sets ERR by its outcome (R31, R90, R192). -/
theorem IssueMove.err {s t : State} {i : Instr} (m : IssueMove s i t) :
    t.status.err = if Instr.singleStep i = false ∧ s.cfg.entPresent = false then .invalidArg else .ok := by
  cases m with
  | single _ hs => simp [hs]
  | port d he => simp [he]
  | bulk d he _ => simp [he]
  | bulkAbsent d he _ => simp [he]
  | refused _ hs he => simp [hs, he]

/-- An issue clears DEGRADED, whatever its outcome (R32). -/
theorem IssueMove.degraded {s t : State} {i : Instr} (m : IssueMove s i t) : t.status.degraded = false := by
  cases m <;> rfl

/-- An issue leaves FALLBACK set only for an ENC.BULK that cannot use the bulk port (R33). -/
theorem IssueMove.fallback {s t : State} {i : Instr} (m : IssueMove s i t) :
    t.status.fallback = true ↔ (∃ d, i = .encBulk d) ∧ s.cfg.entPresent = true ∧ s.cfg.bulkPresent = false := by
  cases m with
  | single i hs => cases i <;> simp [Instr.singleStep] at hs ⊢
  | port d _ => simp
  | bulk d _ hp => simp [hp]
  | bulkAbsent d he hp => simp [he, hp]
  | refused _ _ he => simp [he]

theorem entStep_status (d : SlotId) (a : EntAnswer) (s : State) :
    (s.entStep d a).status.degraded = (a.mark s.status).degraded ∧
    (s.entStep d a).status.fallback = s.status.fallback := by
  unfold State.entStep
  split <;> simp

theorem EntAnswer.mark_degraded (a : EntAnswer) (t : Status) :
    (a.mark t).degraded = true ↔ t.degraded = true ∨ a = .fail := by
  cases a <;> simp [EntAnswer.mark]

theorem bulkStep_status (d : SlotId) (a : BulkAnswer) (s : State) :
    (s.bulkStep d a).status.degraded = s.status.degraded ∧
    ((s.bulkStep d a).status.fallback = true ↔ s.status.fallback = true ∨ ∀ b, a ≠ .got 10 b) := by
  by_cases h : ∃ b, a = .got 10 b
  · obtain ⟨b, rfl⟩ := h
    simp [State.bulkStep]
  · have hne : ∀ b, a ≠ .got 10 b := fun b hb => h ⟨b, hb⟩
    simp [bulkStep_fb d a s hne, hne]

/-- A CORE step sets DEGRADED exactly when a port command takes a failed answer (R32, R105). -/
theorem CoreMove.degraded {s t : State} {i : Instr} (m : CoreMove s i t) :
    t.status.degraded = true ↔ s.status.degraded = true ∨
      Instr.singleStep i = false ∧ s.seq.phase = .entWait ∧ s.entAnswer = some .fail := by
  cases m with
  | encConst _ _ hp => simp [hp]
  | encSkip _ hp => simp [hp]
  | render _ hp => simp [hp]
  | extract _ hp => simp [hp]
  | cmp _ _ hp => simp [hp]
  | eq _ _ hp => simp [hp]
  | copy _ _ hp => simp [hp]
  | tsWrite _ d _ hp => simp [hp, State.tsWriteStep]
  | entWait _ _ _ _ ha => simp [ha]
  | ent _ d a hi hp ha =>
    have hs : Instr.singleStep i = false := by rcases hi with rfl | rfl <;> rfl
    simp [entStep_status, EntAnswer.mark_degraded, hs, hp, ha]
  | bulkWait _ hp _ => simp [hp]
  | bulk d a hp _ => simp [bulkStep_status, hp]

/-- A CORE step sets FALLBACK exactly when an ENC.BULK takes a bulk answer other than ten bytes (R33, R108). -/
theorem CoreMove.fallback {s t : State} {i : Instr} (m : CoreMove s i t) :
    t.status.fallback = true ↔ s.status.fallback = true ∨
      ∃ d a, i = .encBulk d ∧ s.seq.phase = .bulkWait ∧ s.bulkAnswer = some a ∧ ∀ b, a ≠ .got 10 b := by
  cases m with
  | encConst _ _ _ => simp
  | encSkip _ _ => simp
  | render _ _ => simp
  | extract _ _ => simp
  | cmp _ _ _ => simp
  | eq _ _ _ => simp
  | copy _ _ _ => simp
  | tsWrite _ d _ hp => simp [hp, State.tsWriteStep]
  | entWait _ _ _ hp _ => simp [hp]
  | ent _ d a _ hp _ => simp [entStep_status, hp]
  | bulkWait _ _ ha => simp [ha]
  | bulk d a hp ha => simp [bulkStep_status, hp, ha]

theorem CoreMove.err {s t : State} {i : Instr} (m : CoreMove s i t) : t.status.err = s.status.err := by
  obtain ⟨-, -, -, -, -, -, herr, -⟩ := m.frame
  exact herr

/-- ERR by the kind of the step (R31). -/
theorem InputKind.err {s t : State} {e : Input} (k : InputKind s e t) :
    (∀ w i, e = wr .cmd w → s.status.busy = false → decodeWord w = .ok i →
      t.status.err = if Instr.singleStep i = false ∧ s.cfg.entPresent = false then .invalidArg else .ok) ∧
    (∀ w d, e = wr .cmd w → s.status.busy = false → decodeWord w = .error d → t.status.err = .illegalCmd) ∧
    (e = .reset → t.status.err = .ok) ∧
    (¬ ((∃ w, e = wr .cmd w) ∧ s.status.busy = false) → e ≠ .reset → t.status.err = s.status.err) := by
  cases k with
  | reset => simp [State.assertReset, State.afterReset]
  | core i _ _ _ m => simp [m.err]
  | illegal w e hb hd =>
    refine ⟨fun w' i' hw' _ hd' => ?_, by simp, by simp, fun hno => absurd ⟨⟨w, rfl⟩, hb⟩ hno⟩
    obtain ⟨-, rfl⟩ := wr_inj.1 hw'
    cases hd.symm.trans hd'
  | issue w i _ hb hd m =>
    refine ⟨fun w' i' hw' _ hd' => ?_, fun w' e hw' _ hd' => ?_, by simp, fun hno => absurd ⟨⟨w, rfl⟩, hb⟩ hno⟩ <;>
      obtain ⟨-, rfl⟩ := wr_inj.1 hw' <;> cases hd.symm.trans hd'
    exact m.err
  | other _ _ hcmd hreset _ herr _ _ _ _ =>
    exact ⟨fun w i hw hb _ => absurd ⟨⟨w, hw⟩, hb⟩ hcmd, fun w e hw hb _ => absurd ⟨⟨w, hw⟩, hb⟩ hcmd,
      fun hr => absurd hr hreset, fun _ _ => herr⟩

/-- DEGRADED by the kind of the step (R32). -/
theorem InputKind.degraded {s t : State} {e : Input} (k : InputKind s e t) :
    ((∃ w, e = wr .cmd w) ∧ s.status.busy = false → t.status.degraded = false) ∧
    (e = .reset → t.status.degraded = false) ∧
    (¬ ((∃ w, e = wr .cmd w) ∧ s.status.busy = false) → e ≠ .reset →
      (t.status.degraded = true ↔ s.status.degraded = true ∨
        ∃ i, (e = .core ∧ s.status.busy = true ∧ s.seq.running = .ok i) ∧
          Instr.singleStep i = false ∧ s.seq.phase = .entWait ∧ s.entAnswer = some .fail)) := by
  cases k with
  | reset => simp [State.assertReset, State.afterReset]
  | core i _ hb hr m => simp [m.degraded, hb, hr]
  | illegal w e hb _ => simp [hb]
  | issue w i _ hb _ m => simp [hb, m.degraded]
  | other _ _ hcmd hreset hcore _ hdeg _ _ _ =>
    refine ⟨fun h => absurd h hcmd, fun h => absurd h hreset, fun _ _ => ?_⟩
    rw [hdeg]
    exact ⟨.inl, fun h => h.resolve_right fun ⟨i, ⟨he, hb, _⟩, _⟩ => hcore ⟨he, hb⟩⟩

/-- FALLBACK by the kind of the step (R33). -/
theorem InputKind.fallback {s t : State} {e : Input} (k : InputKind s e t) :
    (∀ w, e = wr .cmd w → s.status.busy = false →
      (t.status.fallback = true ↔
        (∃ d, decodeWord w = .ok (.encBulk d)) ∧ s.cfg.entPresent = true ∧ s.cfg.bulkPresent = false)) ∧
    (e = .reset → t.status.fallback = false) ∧
    (¬ ((∃ w, e = wr .cmd w) ∧ s.status.busy = false) → e ≠ .reset →
      (t.status.fallback = true ↔ s.status.fallback = true ∨
        ∃ d a, (e = .core ∧ s.status.busy = true ∧ s.seq.running = .ok (.encBulk d)) ∧
          s.seq.phase = .bulkWait ∧ s.bulkAnswer = some a ∧ ∀ b, a ≠ .got 10 b)) := by
  cases k with
  | reset => simp [State.assertReset, State.afterReset]
  | core i _ hb hr m => simp [m.fallback, hb, hr]
  | illegal w e hb hd =>
    refine ⟨fun w' hw _ => ?_, by simp, fun hno => absurd ⟨⟨w, rfl⟩, hb⟩ hno⟩
    obtain ⟨-, rfl⟩ := wr_inj.1 hw
    simp [hd]
  | issue w i _ hb hd m =>
    refine ⟨fun w' hw _ => ?_, by simp, fun hno => absurd ⟨⟨w, rfl⟩, hb⟩ hno⟩
    obtain ⟨-, rfl⟩ := wr_inj.1 hw
    simp [hd, m.fallback]
  | other _ _ hcmd hreset hcore _ _ hfall _ _ =>
    refine ⟨fun w hw hb => absurd ⟨⟨w, hw⟩, hb⟩ hcmd, fun h => absurd h hreset, fun _ _ => ?_⟩
    rw [hfall]
    exact ⟨.inl, fun h => h.resolve_right fun ⟨_, _, ⟨he, hb, _⟩, _⟩ => hcore ⟨he, hb⟩⟩

/-- OVR: the refused writes set it, a STATUS write and a reset clear it, every other input keeps it (R34, R194). -/
theorem InputMove.ovr {s t : State} {e : Input} (m : InputMove s e t) :
    t.status.ovr = true ↔
      s.status.busy = true ∧ (∃ r v, e = wr r v ∧ (r = .cmd ∨ Reg.stored r = true)) ∨
      s.status.ovr = true ∧ ¬ (∃ v, e = wr .status v ∧ v.getLsbD 5 = true) ∧ e ≠ .reset := by
  cases m with
  | busError a h =>
    have hw (r v) : Input.host a ≠ wr r v := (h r v).1
    simp [hw]
  | read r v n => simp
  | overrun r v hb hr => exact iff_of_true rfl (.inl ⟨hb, r, v, rfl, hr⟩)
  | readOnly r v hr =>
    have hs : r ≠ .cmd ∧ Reg.stored r = false ∧ r ≠ .status := by cases r <;> simp [Reg.readOnly, Reg.stored] at hr ⊢
    simp [hs]
  | status v => simp [Reg.stored, -BitVec.getLsbD_eq_getElem]
  | tsLo v hb => simp [hb]
  | tsHi v hb => simp [hb]
  | ctxLo v hb => simp [hb]
  | ctxHi v hb => simp [hb]
  | slotWord d j v hb => simp [hb]
  | illegal w e hb _ => simp [hb]
  | issue w i _ hb _ m => simp [hb, m.frame.2]
  | coreIdle hb => simp
  | core i _ _ _ m =>
    obtain ⟨-, -, -, -, -, -, -, hovr⟩ := m.frame
    simp [hovr]
  | ent n a => rw [entAnswers_frame]; simp
  | bulk n a => rw [bulkAnswers_frame]; simp
  | reset => simp [State.assertReset, State.afterReset]

/-- Settles O33, by the kind of the step. -/
theorem errIsTheOutcomeOfTheLastCmdWrite : Obligations.ErrIsTheOutcomeOfTheLastCmdWrite := by
  intro s t h
  obtain ⟨e, rest, k, hw, hr, -⟩ := step_kind h
  simp only [hw, hr]
  exact k.err

/-- Settles O34, by the kind of the step. -/
theorem degradedMarksAFailedByte : Obligations.DegradedMarksAFailedByte := by
  intro s t h
  obtain ⟨e, rest, k, hw, hr, hc⟩ := step_kind h
  simp only [hw, hr, hc]
  exact k.degraded

/-- Settles O35, by the kind of the step. -/
theorem fallbackMarksABulkThatFellBack : Obligations.FallbackMarksABulkThatFellBack := by
  intro s t h
  obtain ⟨e, rest, k, hw, hr, hc⟩ := step_kind h
  simp only [hw, hr, hc]
  obtain ⟨hcmd, hreset, hother⟩ := k.fallback
  obtain ⟨-, -, -, herr⟩ := k.err
  exact ⟨hcmd, hreset, fun hno hnr => ⟨hother hno hnr, herr hno hnr⟩⟩

/-- Settles O32, by cases on what the step's input can do. -/
theorem ovrIsSticky : Obligations.OvrIsSticky := by
  intro s t h
  obtain ⟨e, rest, m, hw, hr, -⟩ := step_inputMove h
  simp only [hw, hr, ← stored_iff]
  exact m.ovr

/-! ## The data -/

theorem entStep_result (d : SlotId) (a : EntAnswer) (s : State) : (s.entStep d a).result = s.result := by
  unfold State.entStep; split <;> rfl

theorem entStep_str (d : SlotId) (a : EntAnswer) (s : State) : (s.entStep d a).str = s.str := by
  unfold State.entStep; split <;> rfl

/-- The BULKWAIT step changes, of the data, its destination slot only (R108). -/
theorem bulkStep_data (d : SlotId) (a : BulkAnswer) (s : State) :
    (s.bulkStep d a).result = s.result ∧ (s.bulkStep d a).str = s.str ∧
    ∀ e, e ≠ d → (s.bulkStep d a).slot e = s.slot e := by
  by_cases h : ∃ b, a = .got 10 b
  · obtain ⟨b, rfl⟩ := h
    exact ⟨rfl, rfl, fun e he => by rw [slot_bulkOk, slot_setSlot_other he]⟩
  · rw [bulkStep_fb d a s fun b hb => h ⟨b, hb⟩]
    exact ⟨rfl, rfl, fun _ _ => rfl⟩

/-- A CORE step that changes RESULT is one of its three writers, with its own value (R26). -/
theorem CoreMove.result {s t : State} {i : Instr} (m : CoreMove s i t) : t.result = s.result ∨
    (∃ d, i = .extract d ∧ t.result = .ofVal (0#16 ++ ts48 (s.slotBytes d))) ∨
    (∃ a b, i = .cmp a b ∧ t.result = .ofVal (cmpResult (s.slotBytes a) (s.slotBytes b))) ∨
    (∃ a b, i = .eq a b ∧ t.result = .ofVal (eqResult (s.slotBytes a) (s.slotBytes b))) := by
  cases m with
  | extract d _ => exact .inr (.inl ⟨d, rfl, by simp [zext48]⟩)
  | cmp a b _ => exact .inr (.inr (.inl ⟨a, b, rfl, by simp⟩))
  | eq a b _ => exact .inr (.inr (.inr ⟨a, b, rfl, by simp⟩))
  | encConst _ _ _ => simp
  | encSkip _ _ => simp
  | render _ _ => simp
  | copy _ _ _ => simp
  | tsWrite _ _ _ _ => exact .inl rfl
  | entWait _ _ _ _ _ => exact .inl rfl
  | ent _ d a _ _ _ => exact .inl (entStep_result d a s)
  | bulkWait _ _ _ => exact .inl rfl
  | bulk d a _ _ =>
    obtain ⟨hresult, -, -⟩ := bulkStep_data d a s
    exact .inl hresult

/-- A CORE step that changes STR is a RENDER (R27). -/
theorem CoreMove.str {s t : State} {i : Instr} (m : CoreMove s i t) : t.str = s.str ∨
    ∃ d, i = .render d ∧ t.str = renderStr (val128 (s.slotBytes d)) := by
  cases m with
  | render d _ => exact .inr ⟨d, rfl, str_render _ _⟩
  | extract _ _ => simp
  | cmp _ _ _ => simp
  | eq _ _ _ => simp
  | encConst _ _ _ => simp
  | encSkip _ _ => simp
  | copy _ _ _ => simp
  | tsWrite _ _ _ _ => exact .inl rfl
  | entWait _ _ _ _ _ => exact .inl rfl
  | ent _ d a _ _ _ => exact .inl (entStep_str d a s)
  | bulkWait _ _ _ => exact .inl rfl
  | bulk d a _ _ =>
    obtain ⟨-, hstr, -⟩ := bulkStep_data d a s
    exact .inl hstr

/-- A CORE step that changes slot `d` is an encode into `d` or a COPY into `d` (R23, R101). -/
theorem CoreMove.slot {s t : State} {i : Instr} (m : CoreMove s i t) (d : SlotId) : t.slot d = s.slot d ∨
    ∃ v e, i = .encPort d ∨ i = .encConst d v ∨ i = .encSkip d ∨ i = .encBulk d ∨ i = .copy e d := by
  by_cases hd : ∃ v e, i = .encPort d ∨ i = .encConst d v ∨ i = .encSkip d ∨ i = .encBulk d ∨ i = .copy e d
  · exact .inr hd
  · refine .inl ?_
    cases m with
    | encConst d' v _ => exact slot_setSlot_other (by rintro rfl; simp at hd) _ s
    | encSkip d' _ => exact slot_setSlot_other (by rintro rfl; simp at hd) _ s
    | copy a d' _ => exact slot_setSlot_other (by rintro rfl; simp at hd) _ s
    | render _ _ => exact slot_of_slots (by simp) d
    | extract _ _ => exact slot_of_slots (by simp) d
    | cmp _ _ _ => exact slot_of_slots (by simp) d
    | eq _ _ _ => exact slot_of_slots (by simp) d
    | tsWrite _ d' hi _ => exact slot_setSlot_other (by rintro rfl; rcases hi with rfl | rfl <;> simp at hd) _ s
    | entWait _ _ _ _ _ => rfl
    | ent _ d' a hi _ _ =>
      rw [slot_entStep]
      exact slot_setSlot_other (by rintro rfl; rcases hi with rfl | rfl <;> simp at hd) _ s
    | bulkWait _ _ _ => rfl
    | bulk d' a _ _ =>
      obtain ⟨-, -, hslot⟩ := bulkStep_data d' a s
      exact hslot d (by rintro rfl; simp at hd)

/-- An issue changes no datum and not CFG. -/
theorem IssueMove.data {s t : State} {i : Instr} (m : IssueMove (s.respond .written) i t) (e : Input) :
    t.cfg = s.cfg ∧ StoresOnly s e t := by
  rw [m.frame.1]
  exact ⟨rfl, .of_slots e⟩

/-- The data by the kind of the step: a reset, a turn of CORE, or an input that stores what it names. -/
theorem InputKind.data {s t : State} {e : Input} (k : InputKind s e t) :
    e = .reset ∨ (∃ i, (e = .core ∧ s.status.busy = true ∧ s.seq.running = .ok i) ∧ CoreMove s i t) ∨
      StoresOnly s e t := by
  cases k with
  | reset => exact .inl rfl
  | core i _ hb hr m => exact .inr (.inl ⟨i, ⟨rfl, hb, hr⟩, m⟩)
  | illegal _ _ _ _ => exact .inr (.inr (.of_slots _))
  | issue _ _ _ _ _ m => exact .inr (.inr (m.data _).2)
  | other _ _ _ _ _ _ _ _ _ hdata => exact .inr (.inr hdata)

theorem InputKind.cfg {s t : State} {e : Input} (k : InputKind s e t) : t.cfg = s.cfg := by
  cases k with
  | reset => rfl
  | core i _ _ _ m =>
    obtain ⟨-, -, hcfg, -⟩ := m.frame
    exact hcfg
  | illegal _ _ _ _ => rfl
  | issue _ _ _ _ _ m => exact (m.data .core).1
  | other _ _ _ _ _ _ _ _ hcfg _ => exact hcfg

/-- Settles O36: of the data, RESULT is stored by no input but a reset and a turn of CORE. -/
theorem resultWrittenByThreeCommands : Obligations.ResultWrittenByThreeCommands := by
  intro s t h hne
  obtain ⟨e, rest, k, -, hr, hc⟩ := step_kind h
  simp only [hr, hc]
  obtain rfl | ⟨i, hcore, m⟩ | hdata := k.data
  · exact .inl rfl
  · obtain ⟨he, hb, hrun⟩ := hcore
    obtain hk | ⟨d, rfl, hres⟩ | ⟨a, b, rfl, hres⟩ | ⟨a, b, rfl, hres⟩ := m.result
    · exact absurd hk hne
    · exact .inr ⟨d, 0, .inl ⟨⟨he, hb, hrun⟩, hres⟩⟩
    · exact .inr ⟨a, b, .inr (.inl ⟨⟨he, hb, hrun⟩, hres⟩)⟩
    · exact .inr ⟨a, b, .inr (.inr ⟨⟨he, hb, hrun⟩, hres⟩)⟩
  · exact absurd hdata.result hne

/-- Settles O37: a RENDER writes every byte of STR. -/
theorem strWrittenByRenderWhole : Obligations.StrWrittenByRenderWhole := by
  intro s t h hne
  obtain ⟨e, rest, k, -, hr, hc⟩ := step_kind h
  simp only [hr, hc]
  obtain rfl | ⟨i, hcore, m⟩ | hdata := k.data
  · exact .inl rfl
  · obtain hk | ⟨d, rfl, hstr⟩ := m.str
    · exact absurd hk hne
    · exact .inr ⟨⟨d, hcore, hstr⟩, fun i => by rw [hstr, renderStr_get]; rfl⟩
  · exact absurd hdata.str hne

/-- Settles O38, by the kind of the step. -/
theorem slotsWrittenByTheirWriters : Obligations.SlotsWrittenByTheirWriters := by
  intro s t d h hne
  obtain ⟨e, rest, k, hw, hr, hc⟩ := step_kind h
  simp only [hw, hr, hc]
  obtain rfl | ⟨i, ⟨he, (hb : s.status.busy = true), hrun⟩, m⟩ | hdata := k.data
  · exact .inl rfl
  · obtain hk | ⟨v, f, hi⟩ := m.slot d
    · exact absurd hk hne
    · refine .inr (.inr ⟨v, f, ?_⟩)
      simpa only [he, hb, hrun, true_and, Except.ok.injEq] using hi
  · exact .inr (.inl ((hdata.slot d).resolve_left hne))

/-- Settles O39: a turn of CORE leaves TS and CTX, and no other input than a write of a half stores into them. -/
theorem tsAndCtxWrittenByHostOnly : Obligations.TsAndCtxWrittenByHostOnly := by
  intro s t h
  obtain ⟨e, rest, k, hw, hr, -⟩ := step_kind h
  simp only [hw, hr]
  obtain rfl | ⟨i, -, m⟩ | hdata := k.data
  · exact ⟨fun _ => .inl rfl, fun _ => .inl rfl⟩
  · obtain ⟨hts, hctx, -⟩ := m.frame
    exact ⟨fun hne => absurd hts hne, fun hne => absurd hctx hne⟩
  · exact ⟨fun hne => .inr (hdata.ts.resolve_left hne), fun hne => .inr (hdata.ctx.resolve_left hne)⟩

/-- The layout of CFG (R35), by enumeration of the two tie-offs. -/
theorem Cfg.word_bits (c : Cfg) :
    c.word.getLsbD 0 = c.entPresent ∧ c.word.getLsbD 1 = c.bulkPresent ∧ c.word.extractLsb' 2 30 = 0 := by
  obtain ⟨ent, bulk⟩ := c
  revert ent bulk
  decide

/-- Settles O40: the layout of CFG, its value at reset, and that every kind of step keeps it. -/
theorem cfgIsTheTieOffs : Obligations.CfgIsTheTieOffs := by
  refine ⟨fun s => ?_, rfl, rfl, fun s t h => ?_⟩
  · obtain ⟨hent, hbulk, hrest⟩ := s.cfg.word_bits
    exact ⟨hent, hbulk, hrest, rfl⟩
  · obtain ⟨e, rest, k, -⟩ := step_kind h
    exact k.cfg

end Sys2Proof.Machine
end

section
/-! SUPPORT. States that agree on what is written (10_state R38; 70 R223, U7): what each operation keeps of the agreement,
and O49. -/

namespace Sys2Proof.Machine

theorem Data.agree.refl {w : Nat} (a : Data w) : a.agree a := .inl rfl

/-- A written datum has its value in every state that agrees (R38). -/
theorem Data.agree.eq {w : Nat} {a b : Data w} (h : a.agree b) (hw : a.isWritten = true) : a = b :=
  h.resolve_right fun hn => by simp [hw] at hn

/-- Two slots agree byte by byte. -/
def Slot.agree (a b : Slot) : Prop := ∀ k : Fin 16, a[k].agree b[k]

theorem Slot.agree.refl (a : Slot) : a.agree a := fun k => .refl a[k]

theorem Slot.agree.withTs {a b : Slot} (h : a.agree b) (t : Dword) : (a.withTs t).agree (b.withTs t) := by
  intro k
  rw [withTs_get, withTs_get]
  split
  · exact .refl _
  · exact h k

/-- Of two slots that agree, with the first `n` bytes written, these bytes have the same values. -/
theorem Slot.agree.byte {a b : Slot} (h : a.agree b) {n : Nat} (hw : (a.toList.take n).all Data.isWritten = true)
    (k : Nat) (hk : k < 16) (hn : k < n) : a.bytes[k] = b.bytes[k] := by
  have hmem : a[k] ∈ a.toList.take n := List.mem_take_iff_getElem.2 ⟨k, by simp [hk, hn], by simp⟩
  have hab : a[k] = b[k] := (h ⟨k, hk⟩).eq (List.all_eq_true.1 hw _ hmem)
  simp [Slot.bytes, hab]

theorem Slot.agree.bytes {a b : Slot} (h : a.agree b) (hw : Slot.isWritten a = true) : a.bytes = b.bytes := by
  have hall : (a.toList.take 16).all Data.isWritten = true := by rwa [List.take_of_length_le (by simp)]
  exact Vector.ext fun k hk => h.byte hall k hk hk

/-- The timestamp field needs bytes 0..5 only (R22, U7). -/
theorem Slot.agree.ts48 {a b : Slot} (h : a.agree b) (hw : (a.toList.take 6).all Data.isWritten = true) :
    ts48 a.bytes = ts48 b.bytes := by
  have hbyte := h.byte hw
  simp only [Machine.ts48, hbyte 0, hbyte 1, hbyte 2, hbyte 3, hbyte 4, hbyte 5, Nat.reduceLT]

theorem exec_encPort_idle (d : SlotId) {s : State} (hb : s.status.busy = false) :
    exec (.encPort d) s = .next (s.acceptIfEnt (State.accept (.encPort d) .tsWrite)) := by
  simp [exec, execEncPort, hb]

theorem exec_encBulk_idle (d : SlotId) {s : State} (hb : s.status.busy = false) :
    exec (.encBulk d) s = .next (s.acceptIfEnt (State.acceptBulk d)) := by
  simp [exec, execEncBulk, hb]

namespace State.AgreeOnWritten

variable {s t : State}

theorem setSlot (h : s.AgreeOnWritten t) (d : SlotId) {a b : Slot} (hab : a.agree b) :
    (s.setSlot d a).AgreeOnWritten (t.setSlot d b) := by
  refine { h with slots := fun e => ?_ }
  by_cases he : e = d
  · subst he
    rw [slot_setSlot_self, slot_setSlot_self]
    exact hab
  · rw [slot_setSlot_other he, slot_setSlot_other he]
    exact h.slots e

theorem setResult (h : s.AgreeOnWritten t) (v : Dword) : (s.setResult v).AgreeOnWritten (t.setResult v) :=
  { h with result_lo := .refl _, result_hi := .refl _ }

theorem setStr (h : s.AgreeOnWritten t) (b : Str) : (s.setStr b).AgreeOnWritten (t.setStr b) :=
  { h with str := fun _ => .refl _ }

theorem complete (h : s.AgreeOnWritten t) : s.complete.AgreeOnWritten t.complete :=
  { h with status := congrArg Status.completed h.status, seq := by simp [h.seq] }

theorem cmdError (h : s.AgreeOnWritten t) (e : ErrCode) : (s.cmdError e).AgreeOnWritten (t.cmdError e) :=
  { h with status := congrArg (Status.failed e) h.status }

theorem fallBack (h : s.AgreeOnWritten t) : s.fallBack.AgreeOnWritten t.fallBack :=
  { h with status := congrArg Status.fallBack h.status, seq := by simp [h.seq] }

theorem ts_val (h : s.AgreeOnWritten t) (hw : s.ts.isWritten = true) : s.ts.val = t.ts.val := by
  obtain ⟨hlo, hhi⟩ := Bool.and_eq_true_iff.1 hw
  rw [Reg64.val, Reg64.val, h.ts_lo.eq hlo, h.ts_hi.eq hhi]

theorem ctx_val (h : s.AgreeOnWritten t) (hw : s.ctx.isWritten = true) : s.ctx.val = t.ctx.val := by
  obtain ⟨hlo, hhi⟩ := Bool.and_eq_true_iff.1 hw
  rw [Reg64.val, Reg64.val, h.ctx_lo.eq hlo, h.ctx_hi.eq hhi]

/-- Acceptance latches TS and CTX, so it needs both written (R223). -/
theorem accept (h : s.AgreeOnWritten t) (hts : s.ts.isWritten = true) (hctx : s.ctx.isWritten = true) (i : Instr)
    (p : Phase) : (s.accept i p).AgreeOnWritten (t.accept i p) :=
  { h with
    status := congrArg Status.accepted h.status
    seq := by simp only [State.accept_seq, h.seq, h.ts_val hts, h.ctx_val hctx] }

theorem acceptIfEnt (h : s.AgreeOnWritten t) {f : State → State} (hf : (f s).AgreeOnWritten (f t)) :
    (s.acceptIfEnt f).AgreeOnWritten (t.acceptIfEnt f) := by
  unfold State.acceptIfEnt
  rw [← h.cfg]
  split
  · exact hf
  · exact h.cmdError _

theorem acceptBulk (h : s.AgreeOnWritten t) (hts : s.ts.isWritten = true) (hctx : s.ctx.isWritten = true)
    (d : SlotId) : (s.acceptBulk d).AgreeOnWritten (t.acceptBulk d) := by
  unfold State.acceptBulk
  rw [← h.cfg]
  split
  · exact h.accept hts hctx _ _
  · exact (h.accept hts hctx _ _).fallBack

theorem slotBytes (h : s.AgreeOnWritten t) {d : SlotId} (hw : Slot.isWritten (s.slot d) = true) :
    s.slotBytes d = t.slotBytes d := Slot.agree.bytes (h.slots d) hw

/-- The CORE step of a command of one step keeps the agreement when its effect does. -/
theorem runSingle (h : s.AgreeOnWritten t) {i : Instr} {f : State → State} (hb : s.status.busy = true)
    (hp : s.seq.phase = .exec) (hf : (f s).AgreeOnWritten (f t)) :
    ∃ s' t', s.runSingle i f = .next s' ∧ t.runSingle i f = .next t' ∧ s'.AgreeOnWritten t' :=
  ⟨_, _, runSingle_exec hb hp, runSingle_exec (h.status ▸ hb) (h.seq ▸ hp), hf.complete⟩

/-- The effect of each command of one step, when the slot bytes it needs are written (R38, U7). -/
theorem exec_single (h : s.AgreeOnWritten t) {i : Instr} (hs : Instr.singleStep i = true)
    (hb : s.status.busy = true) (hp : s.seq.phase = .exec) (hw : s.slotOperandsWritten i = true) :
    ∃ s' t', exec i s = .next s' ∧ exec i t = .next t' ∧ s'.AgreeOnWritten t' := by
  cases i with
  | encPort _ => cases hs
  | encBulk _ => cases hs
  | encConst d v =>
    rw [exec_encConst, exec_encConst]
    refine h.runSingle hb hp ?_
    simp only [h.seq]
    exact h.setSlot d (.refl _)
  | encSkip d =>
    rw [exec_encSkip, exec_encSkip]
    refine h.runSingle hb hp ?_
    simp only [h.seq]
    exact h.setSlot d (Slot.agree.withTs (h.slots d) _)
  | render d =>
    rw [exec_render, exec_render]
    refine h.runSingle hb hp ?_
    simp only [h.slotBytes hw]
    exact h.setStr _
  | extract d =>
    rw [exec_extract, exec_extract]
    refine h.runSingle hb hp ?_
    have hts : ts48 (s.slotBytes d) = ts48 (t.slotBytes d) := Slot.agree.ts48 (h.slots d) hw
    simp only [hts]
    exact h.setResult _
  | cmp a b =>
    obtain ⟨ha, hb'⟩ := Bool.and_eq_true_iff.1 hw
    rw [exec_cmp, exec_cmp]
    refine h.runSingle hb hp ?_
    simp only [h.slotBytes ha, h.slotBytes hb']
    exact h.setResult _
  | eq a b =>
    obtain ⟨ha, hb'⟩ := Bool.and_eq_true_iff.1 hw
    rw [exec_eq, exec_eq]
    refine h.runSingle hb hp ?_
    simp only [h.slotBytes ha, h.slotBytes hb']
    exact h.setResult _
  | copy a d =>
    rw [exec_copy, exec_copy]
    exact h.runSingle hb hp (h.setSlot d (h.slots a))

/-- The issue of a port command, when TS and CTX are written (R223). -/
theorem exec_port (h : s.AgreeOnWritten t) {i : Instr} (hs : Instr.singleStep i = false)
    (hb : s.status.busy = false) (hw : s.registerOperandsWritten i = true) :
    ∃ s' t', exec i s = .next s' ∧ exec i t = .next t' ∧ s'.AgreeOnWritten t' := by
  have hb' : t.status.busy = false := h.status ▸ hb
  rcases issue_cases i with hs' | ⟨d, rfl⟩ | ⟨d, rfl⟩
  · rw [hs] at hs'
    cases hs'
  · obtain ⟨hts, hctx⟩ := Bool.and_eq_true_iff.1 hw
    exact ⟨_, _, exec_encPort_idle d hb, exec_encPort_idle d hb', h.acceptIfEnt (h.accept hts hctx _ _)⟩
  · obtain ⟨hts, hctx⟩ := Bool.and_eq_true_iff.1 hw
    exact ⟨_, _, exec_encBulk_idle d hb, exec_encBulk_idle d hb', h.acceptIfEnt (h.acceptBulk hts hctx d)⟩

end State.AgreeOnWritten

/-- Settles O49, by the two kinds of command. -/
theorem unwrittenDataElsewhereDoNotMatter : Obligations.UnwrittenDataElsewhereDoNotMatter :=
  fun _ _ _ h => ⟨h.exec_single, h.exec_port⟩

end Sys2Proof.Machine
end

section
/-! SUPPORT. The register window (20_memory R52 to R62): one rule for each kind of access a step performs, and O7 to
O12, O14, O21 and O50. -/

namespace Sys2Proof.Machine

/-! ## The map -/

/-- The unmapped offsets (R52, R57). -/
theorem regAt_eq_none_iff (off : BitVec 8) : regAt off = none ↔
    off.toNat % 4 ≠ 0 ∨ off.toNat = 0x0C ∨ 0x28 ≤ off.toNat ∧ off.toNat ≤ 0x3C ∨ 0x9C ≤ off.toNat := by
  unfold regAt
  split
  · split
    case h_10 =>
      simp only [imp_false] at *
      split
      · simp; omega
      · split <;> simp <;> omega
    all_goals simp; omega
  · simp [*]

/-- Settles O7: the two maps are inverse, and the holes are those of R52. -/
theorem registerMapIsR52 : Obligations.RegisterMapIsR52 :=
  ⟨regAt_offset, fun _ _ => regAt_some, regAt_eq_none_iff⟩

/-! ## What a step is for each kind of access -/

/-- An access the window does not admit is answered, and nothing else happens (R57, R195). -/
theorem step_notAdmitted {s : State} {off : BitVec 8} {bytes : Nat} {v : Word} {rest : List Input}
    (h : bytes ≠ 4 ∨ regAt off = none)
    (hi : s.inputs = .host (.read off bytes) :: rest ∨ s.inputs = .host (.write off bytes v) :: rest) :
    step s = .next { s with inputs := rest, response := .busError } := by
  obtain ⟨hread, hwrite⟩ := perform_notAdmitted { s with inputs := rest } off bytes v h
  rcases hi with hi | hi
  · rw [step_cons hi, hread]
    rfl
  · rw [step_cons hi, hwrite]
    rfl

theorem step_rd_idle {s : State} {r : Reg} {rest : List Input} (hi : s.inputs = rd r :: rest)
    (hb : s.status.busy = false) : step s = .next { s with inputs := rest, response := .data r (s.regValue r) } := by
  rw [step_cons hi, perform_rd, readReg_idle (s := { s with inputs := rest }) hb]
  rfl

/-- A hidden read while a command runs answers a fresh free value (R60). -/
theorem step_rd_hidden {s : State} {r : Reg} {rest : List Input} (hi : s.inputs = rd r :: rest)
    (hb : s.status.busy = true) (hr : r.hiddenWhileBusy = true) :
    step s = .next { s with
      inputs := rest, response := .data r (Config.unspecified 32 s.draws), draws := s.draws + 1 } := by
  rw [step_cons hi, perform_rd]
  simp [State.readReg, hb, hr]

theorem storeIfIdle_idle {f : State → State} {s : State} (hb : s.status.busy = false) :
    s.storeIfIdle f = (f s).respond .written := by
  simp [State.storeIfIdle, hb]

theorem storeIfIdle_busy {f : State → State} {s : State} (hb : s.status.busy = true) :
    s.storeIfIdle f = s.overrun := by
  simp [State.storeIfIdle, hb]

/-- While a command runs a write of CMD, of a half of TS or CTX, or of a slot word is refused (R60, R194). -/
theorem writeReg_refused {s : State} {r : Reg} (v : Word) (hb : s.status.busy = true)
    (hr : r = .cmd ∨ r = .tsLo ∨ r = .tsHi ∨ r = .ctxLo ∨ r = .ctxHi ∨ ∃ d j, r = .slotWord d j) :
    s.writeReg r v = .next s.overrun := by
  rcases hr with rfl | rfl | rfl | rfl | rfl | ⟨d, j, rfl⟩
  · simp [State.writeReg, hb]
  all_goals exact congrArg Host.Outcome.next (storeIfIdle_busy hb)

/-- A write of a register that only stores is performed when no command runs (R53, R55, R58). -/
theorem step_store {s : State} {r : Reg} {v : Word} {rest : List Input} {f : State → State}
    (hi : s.inputs = wr r v :: rest) (hf : ∀ u : State, u.writeReg r v = .next (u.storeIfIdle f))
    (hb : s.status.busy = false) : step s = .next ((f { s with inputs := rest }).respond .written) := by
  rw [step_wr hi, hf, storeIfIdle_idle (s := { s with inputs := rest }) hb]

/-- Settles O8: the offsets named are those the map does not admit. -/
theorem busErrorChangesNothing : Obligations.BusErrorChangesNothing :=
  fun _ off _ _ _ h hi => step_notAdmitted (h.imp_right (regAt_eq_none_iff off).2) hi

/-- Settles O9: a read answers the register's value, or a fresh free value where BUSY = 1 hides it. -/
theorem readsHaveNoSideEffect : Obligations.ReadsHaveNoSideEffect := by
  intro s r rest hi
  by_cases h : r.hiddenWhileBusy = false ∨ s.status.busy = false
  · refine ⟨s.regValue r, s.draws, ?_, fun _ => ⟨rfl, rfl⟩⟩
    rcases h with hr | hb
    · exact step_rd hi hr
    · exact step_rd_idle hi hb
  · obtain ⟨hr, hb⟩ : r.hiddenWhileBusy = true ∧ s.status.busy = true := by simpa using h
    exact ⟨_, _, step_rd_hidden hi hb hr, fun hno => absurd hno h⟩

/-! ## Slot words, string words and halves -/

/-- Byte `m` of the word a host write stores stands at `4 * j + m` (R53). -/
theorem withWord_byte {j : Fin 4} {k : Fin 16} (v : Word) (b : Slot) {m : Nat} (hm : m < 4)
    (hk : k.val = 4 * j.val + m) : (Slot.withWord j v b)[k] = .written (wordByte v m) := by
  have hdiv : k.val / 4 = j.val := by omega
  have hmod : k.val % 4 = m := by omega
  rw [withWord_get, if_pos hdiv, hmod]

theorem withWord_other {j : Fin 4} {k : Fin 16} (v : Word) (b : Slot) (hk : k.val / 4 ≠ j.val) :
    (Slot.withWord j v b)[k] = b[k] := by
  rw [withWord_get, if_neg hk]

/-- Settles O10, by the bytes of a slot after a write of one word. -/
theorem slotWordsAreBigEndian : Obligations.SlotWordsAreBigEndian := by
  intro s d j rest hb
  refine ⟨fun hi => ?_, fun v hi => ?_⟩
  · rw [step_rd_idle hi hb, State.regValue, slotWord_eq]
  · refine ⟨_, step_store hi (fun _ => rfl) hb, ?_⟩
    have hself (u : State) (b : Slot) : ((u.setSlot d b).respond .written).slot d = b := slot_setSlot_self d b u
    rw [hself]
    exact ⟨fun k => withWord_byte v _ (m := 0) (by omega), fun k => withWord_byte v _ (by omega),
      fun k => withWord_byte v _ (by omega), fun k => withWord_byte v _ (by omega),
      fun k => withWord_other v _, fun e he => slot_setSlot_other he _ _, rfl⟩

/-- Byte `m` of a string word (R54). -/
theorem strWord_byte (t : Str) (j : Fin 7) (m : Fin 4) :
    (strWord t j).extractLsb' (24 - 8 * m.val) 8 = t.byte (4 * j.val + m.val) := by
  rw [strWord, append4_extract]
  fin_cases m <;> rfl

/-- Settles O11, by the bytes of a string word. -/
theorem stringWordsAreBigEndian : Obligations.StringWordsAreBigEndian :=
  fun s j _ hb hi => ⟨_, step_rd_idle hi hb, strWord_byte s.str j⟩

theorem Reg64.lo_val (r : Reg64) : r.lo.val = r.val.extractLsb' 0 32 :=
  BitVec.extractLsb'_append_eq_right.symm

theorem Reg64.hi_val (r : Reg64) : r.hi.val = r.val.extractLsb' 32 32 :=
  BitVec.extractLsb'_append_eq_left.symm

/-- Settles O12: a register is its two halves, and a write of one half stores that half. -/
theorem halvesOf64BitRegisters : Obligations.HalvesOf64BitRegisters := by
  refine ⟨by decide, fun s => ?_, fun s v rest hb => ?_⟩
  · exact ⟨s.ts.lo_val, s.ts.hi_val, s.ctx.lo_val, s.ctx.hi_val, s.result.lo_val, s.result.hi_val⟩
  · exact ⟨fun hi => step_store hi (fun _ => rfl) hb, fun hi => step_store hi (fun _ => rfl) hb,
      fun hi => step_store hi (fun _ => rfl) hb, fun hi => step_store hi (fun _ => rfl) hb⟩

/-! ## Accesses while a command runs -/

/-- Settles O14: one rule of a step for each row of R60. -/
theorem accessesWhileBusy : Obligations.AccessesWhileBusy := by
  intro s rest hb
  obtain ⟨-, -, hstatus⟩ := statusBitsAndWrite
  obtain ⟨-, hreadOnly⟩ := cmdReadsZeroAndReadOnlyIgnoreWrites s rest
  refine ⟨fun r v hi hr => ?_, fun v => hstatus s v rest, hreadOnly, fun r hi hr => ?_, fun r hi hr => ?_,
    fun _ _ _ => step_notAdmitted⟩
  · rw [step_wr hi, writeReg_refused (s := { s with inputs := rest }) v hb hr]
    rfl
  · exact step_rd hi (by rcases hr with rfl | rfl | rfl | rfl | rfl | rfl <;> rfl)
  · exact ⟨_, _, step_rd_hidden hi hb (by rcases hr with rfl | rfl | ⟨_, _, rfl⟩ | ⟨_, rfl⟩ <;> rfl)⟩

/-! ## STATUS as the host sees it -/

/-- Issuing a command never stops the machine. -/
theorem exec_idle_next (i : Instr) {s : State} (hb : s.status.busy = false) : ∃ t, exec i s = .next t := by
  rcases issue_cases i with hs | ⟨d, rfl⟩ | ⟨d, rfl⟩
  · obtain ⟨f, hf⟩ := exec_single i hs
    exact ⟨_, (hf s).trans (runSingle_idle hb)⟩
  · exact ⟨_, exec_encPort_idle d hb⟩
  · exact ⟨_, exec_encBulk_idle d hb⟩

/-- A command whose argument check passes is accepted: it runs, and ERR is 0 (R90). -/
theorem IssueMove.accepted {s t : State} {i : Instr} (m : IssueMove s i t)
    (hok : Instr.singleStep i = true ∨ s.cfg.entPresent = true) : t.status.busy = true ∧ t.status.err = .ok := by
  cases m with
  | refused _ hs he => simp [hs, he] at hok
  | single _ _ => exact ⟨rfl, rfl⟩
  | port _ _ => exact ⟨rfl, rfl⟩
  | bulk _ _ _ => exact ⟨rfl, rfl⟩
  | bulkAbsent _ _ _ => exact ⟨rfl, rfl⟩

theorem IssueMove.inputs {s t : State} {i : Instr} (m : IssueMove s i t) : t.inputs = s.inputs := by
  rw [m.frame.1]

theorem IssueMove.response {s t : State} {i : Instr} (m : IssueMove s i t) : t.response = s.response := by
  rw [m.frame.1]

/-- A CMD write of a legal word to an idle block issues its command (R87, R90). -/
theorem step_cmd {s : State} {w : Word} {i : Instr} {rest : List Input} (hi : s.inputs = wr .cmd w :: rest)
    (hb : s.status.busy = false) (hd : decodeWord w = .ok i) :
    ∃ t, step s = .next t ∧ IssueMove (({ s with inputs := rest } : State).respond .written) i t := by
  obtain ⟨t, ht⟩ := exec_idle_next i (s := ({ s with inputs := rest } : State).respond .written) hb
  refine ⟨t, ?_, exec_issue hb ht⟩
  rw [step_wr hi]
  simpa [State.writeReg, hb, State.issueWord, hd] using ht

/-- Settles O21: acceptance sets BUSY and ERR, and a STATUS read shows them. -/
theorem statusReadAfterCmdSeesIt : Obligations.StatusReadAfterCmdSeesIt := by
  intro s w i rest hi hb hd hok
  obtain ⟨t, hissue, m⟩ := step_cmd hi hb hd
  obtain ⟨hbusy, herr⟩ := m.accepted hok
  have hread := step_rd m.inputs rfl
  obtain ⟨hbit, hcode, -⟩ := t.status.word_bits
  exact ⟨_, _, (run_succ hissue).trans (run_succ hread), rfl, hbit.trans hbusy,
    hcode.trans (congrArg ErrCode.code herr), rfl⟩

theorem State.IdleAsRead.of_response {s : State} (h : ∀ v, s.response ≠ .data .status v) : s.IdleAsRead :=
  fun v hv _ => absurd hv (h v)

theorem State.IdleAsRead.congr {s t : State} (h : s.IdleAsRead) (response : t.response = s.response)
    (busy : t.status.busy = s.status.busy) : t.IdleAsRead :=
  fun v hv hbit => busy.trans (h v (response.symm.trans hv) hbit)

/-- A STATUS read answers with BUSY as it is (R29, R62). -/
theorem State.IdleAsRead.of_read {s t : State} {rest : List Input} (hi : s.inputs = rd .status :: rest)
    (h : step s = .next t) : t.IdleAsRead := by
  cases (step_rd hi rfl).symm.trans h
  intro v hv hbit
  cases hv
  obtain ⟨hbusy, -⟩ := s.status.word_bits
  exact hbusy.symm.trans hbit

/-- Every input but a STATUS read keeps it: another access replaces the answer, and CORE moves only when BUSY = 1. -/
theorem State.IdleAsRead.input {s t : State} {e : Input} (h : s.IdleAsRead) (hne : e ≠ rd .status)
    (m : InputMove s e t) : t.IdleAsRead := by
  cases m with
  | read r v n =>
    have hr : r ≠ .status := fun hr => hne (by rw [hr])
    exact .of_response (by simp [hr])
  | busError _ _ => exact .of_response (by simp)
  | overrun _ _ _ _ => exact .of_response (by simp)
  | readOnly _ _ _ => exact .of_response (by simp)
  | status _ => exact .of_response (by simp)
  | tsLo _ _ => exact .of_response (by simp)
  | tsHi _ _ => exact .of_response (by simp)
  | ctxLo _ _ => exact .of_response (by simp)
  | ctxHi _ _ => exact .of_response (by simp)
  | slotWord _ _ _ _ => exact .of_response (by simp)
  | illegal _ _ _ _ => exact .of_response (by simp)
  | issue _ _ _ _ _ m => exact .of_response (by simp [m.response])
  | coreIdle _ => exact h
  | core _ _ hb _ m =>
    obtain ⟨-, -, -, hresp, -⟩ := m.frame
    intro v hv hbit
    simp [h v (hresp.symm.trans hv) hbit] at hb
  | ent n a => rw [entAnswers_frame]; exact h.congr rfl rfl
  | bulk n a => rw [bulkAnswers_frame]; exact h.congr rfl rfl
  | reset => exact .of_response (by simp [State.assertReset, State.afterReset])

theorem State.IdleAsRead.step {s t : State} (h : s.IdleAsRead) (hstep : step s = .next t) : t.IdleAsRead := by
  rcases step_move hstep with ⟨e, rest, hi, m⟩ | ⟨-, m⟩
  · by_cases he : e = rd .status
    · exact .of_read (he ▸ hi) hstep
    · exact State.IdleAsRead.input (s := { s with inputs := rest }) (h.congr rfl rfl) he m
  · exact h.input (by simp [rd]) m

/-- Settles O50: no access since reset, every step keeps it, and the last access of an ended program is a STATUS read. -/
theorem idleAsReadUntilTheNextAccess : Obligations.IdleAsReadUntilTheNextAccess := by
  refine ⟨.of_response (by simp [State.reset, State.afterReset]), fun s t h => h.step, fun run hrun hended => ?_⟩
  obtain ⟨-, t, hlast, hdone, v, hresp, hbit⟩ := hended
  exact ⟨t, hlast, hrun t (List.mem_of_getLast? hlast) v hresp hbit, hdone⟩

end Sys2Proof.Machine
end

section
/-! SUPPORT. Commands and their words (30_encoding R80 to R88): the encoder and the decoder are inverse, the legal words are
those with well-formed fields, and there are 1092 of them: O1 to O6. -/

namespace Sys2Proof

/-! ## Round trips -/

theorem ofWord_encode (i : Instr) : RawCommand.ofWord (encode i) = i.fields :=
  RawCommand.ofWord_word i.fields

theorem Instr.fields_res (i : Instr) : i.fields.res = 0 := by
  cases i <;> rfl

/-- Settles O1: the fields of the word are the command's, RES is zero, and the fields decode to the command. -/
theorem decodeOfEncode : Obligations.DecodeOfEncode := by
  intro i
  rw [decodeWord_eq, ofWord_encode, if_pos i.fields_res]
  exact decodeFields_fields i

theorem encode_of_decodeWord {w : Word} {i : Instr} (h : decodeWord w = .ok i) : encode i = w := by
  rw [encode, ← decodeWord_ok h, RawCommand.word_ofWord]

/-- Settles O2: a word that decodes has the fields of its command, and a word is its fields. -/
theorem encodeOfDecode : Obligations.EncodeOfDecode :=
  fun _ i h => ⟨encode_of_decodeWord h, i.wellFormed_true⟩

/-! ## The legal words -/

/-- The checks on the fields, by the value of OP (R82 to R84). -/
theorem RawCommand.wellFormed_iff (r : RawCommand) : r.wellFormed = true ↔
    (1 ≤ r.op.toNat ∧ r.op.toNat ≤ 9) ∧ ((7 ≤ r.op.toNat ∧ r.op.toNat ≤ 9) ∨ r.sb = 0) ∧
    (r.op.toNat = 2 ∨ r.imm = 0) ∧ r.res = 0 := by
  simp only [wellFormed, opLegal, slotBOk, usesSlotB, immOk, usesImm, resOk, Bool.and_eq_true, Bool.or_eq_true,
    decide_eq_true_eq, and_assoc]

/-- Well-formed fields are those of a command: one case for each of the nine opcodes (R82, R83). -/
theorem RawCommand.exists_fields_of_wellFormed {r : RawCommand} (h : r.wellFormed = true) :
    ∃ i : Instr, i.fields = r := by
  obtain ⟨⟨⟨op, hop⟩⟩, sa, sb, imm, res⟩ := r
  obtain ⟨⟨hlo, hhi⟩, hsb, himm, rfl⟩ := (wellFormed_iff _).1 h
  simp only [BitVec.toNat_ofFin] at hlo hhi hsb himm
  interval_cases op <;> norm_num at hsb himm
  · subst hsb himm; exact ⟨.encPort sa.toFin, rfl⟩
  · subst hsb; exact ⟨.encConst sa.toFin imm, rfl⟩
  · subst hsb himm; exact ⟨.encSkip sa.toFin, rfl⟩
  · subst hsb himm; exact ⟨.encBulk sa.toFin, rfl⟩
  · subst hsb himm; exact ⟨.render sa.toFin, rfl⟩
  · subst hsb himm; exact ⟨.extract sa.toFin, rfl⟩
  · subst himm; exact ⟨.cmp sa.toFin sb.toFin, rfl⟩
  · subst himm; exact ⟨.eq sa.toFin sb.toFin, rfl⟩
  · subst himm; exact ⟨.copy sa.toFin sb.toFin, rfl⟩

/-- A word is legal exactly when its fields are well formed (R82 to R84, R87). -/
theorem decodeWord_ok_iff_wellFormed (w : Word) :
    (∃ i, decodeWord w = .ok i) ↔ (RawCommand.ofWord w).wellFormed = true := by
  refine ⟨fun ⟨i, h⟩ => ?_, fun h => ?_⟩
  · rw [decodeWord_ok h]
    exact i.wellFormed_true
  · obtain ⟨i, hi⟩ := RawCommand.exists_fields_of_wellFormed h
    have hw : encode i = w := by rw [encode, hi, RawCommand.word_ofWord]
    exact ⟨i, hw ▸ decodeOfEncode i⟩

theorem decodeWord_error_of_not_wellFormed {w : Word} (h : ¬ (RawCommand.ofWord w).wellFormed = true) :
    ∃ e, decodeWord w = .error e := by
  cases hd : decodeWord w with
  | error e => exact ⟨e, rfl⟩
  | ok i => exact absurd ((decodeWord_ok_iff_wellFormed w).1 ⟨i, hd⟩) h

/-- Settles O4: each clause breaks one of the checks on the fields. -/
theorem mustBeZeroFieldsAndReservedOpcodes : Obligations.MustBeZeroFieldsAndReservedOpcodes := by
  intro w op sb imm illegal
  have bad (h : ¬ ((1 ≤ op ∧ op ≤ 9) ∧ ((7 ≤ op ∧ op ≤ 9) ∨ sb = 0) ∧ (op = 2 ∨ imm = 0) ∧ w.extractLsb' 16 16 = 0)) :
      illegal := decodeWord_error_of_not_wellFormed (mt (RawCommand.wellFormed_iff _).1 h)
  refine ⟨fun hres => bad ?_, fun hop hz => bad ?_, fun hop hsb => bad ?_, fun hop himm => bad ?_, fun hop => bad ?_⟩
  · exact fun ⟨_, _, _, hzero⟩ => hres hzero
  · rintro ⟨-, hsb, himm, -⟩
    exact hz.elim (absurd (hsb.resolve_left (by omega))) (absurd (himm.resolve_left (by omega)))
  · rintro ⟨-, hzero, -, -⟩
    exact hsb (hzero.resolve_left (by omega))
  · rintro ⟨-, -, hzero, -⟩
    exact himm (hzero.resolve_left (by omega))
  · rintro ⟨hlegal, -, -, -⟩
    omega

/-! ## The rows of the opcode table -/

theorem encode_and_tableMask (i : Instr) : encode i &&& i.tableMask = i.tableMatch := by
  cases i with
  | encPort d => exact (Laws.TableRow.encPort d).2
  | encConst d v => exact (Laws.TableRow.encConst d v).2
  | encSkip d => exact (Laws.TableRow.encSkip d).2
  | encBulk d => exact (Laws.TableRow.encBulk d).2
  | render d => exact (Laws.TableRow.render d).2
  | extract d => exact (Laws.TableRow.extract d).2
  | cmp a b => exact (Laws.TableRow.cmp a b).2
  | eq a b => exact (Laws.TableRow.eq a b).2
  | copy a b => exact (Laws.TableRow.copy a b).2

/-- A row is named by its opcode (R82). -/
theorem Instr.tableMatch_eq_op (i : Instr) : i.tableMatch = i.fields.op.setWidth 32 := by
  cases i <;> rfl

/-- A word that matches a row has well-formed fields: it shares the opcode with the row's commands, and its other fixed
fields are zero (R82, R83). -/
theorem wellFormed_of_row {w : Word} {i : Instr} (h : w &&& i.tableMask = i.tableMatch) :
    (RawCommand.ofWord w).wellFormed = true := by
  obtain ⟨hop, hsb, himm, hres⟩ := fields_of_row h
  obtain ⟨hlegal, -, -, -⟩ := i.fields.wellFormed_iff.1 i.wellFormed_true
  rw [RawCommand.wellFormed_iff, hop]
  exact ⟨hlegal, or_iff_not_imp_left.2 fun hno => hsb (decide_eq_false hno),
    or_iff_not_imp_left.2 fun hno => himm (decide_eq_false hno), hres⟩

/-- Settles O5, by the word of a command, the fields of a word that matches a row, and the row's opcode. -/
theorem wordsMatchTheirTableRow : Obligations.WordsMatchTheirTableRow := by
  refine ⟨fun w i h => ?_, fun w i h => ?_, fun w i j hi hj => ?_⟩
  · rw [← encode_of_decodeWord h]
    exact encode_and_tableMask i
  · obtain ⟨hop, -⟩ := fields_of_row h
    obtain ⟨j, hj⟩ := (decodeWord_ok_iff_wellFormed w).2 (wellFormed_of_row h)
    rw [decodeWord_ok hj] at hop
    exact ⟨j, hj, by rw [j.tableMatch_eq_op, hop, i.tableMatch_eq_op]⟩
  · obtain ⟨hopi, -⟩ := fields_of_row hi
    obtain ⟨hopj, -⟩ := fields_of_row hj
    rw [i.tableMatch_eq_op, j.tableMatch_eq_op, ← hopi, hopj]

/-! ## The number of legal words -/

/-- The commands by their operands, as R87 counts them: a slot and a byte for ENC.CONST, a slot for each of five opcodes,
two slots for each of three. -/
def Instr.equivOperands : Instr ≃ (SlotId × Byte) ⊕ (Fin 5 × SlotId) ⊕ (Fin 3 × SlotId × SlotId) where
  toFun
    | .encConst d v => .inl (d, v)
    | .encPort d => .inr (.inl (0, d))
    | .encSkip d => .inr (.inl (1, d))
    | .encBulk d => .inr (.inl (2, d))
    | .render d => .inr (.inl (3, d))
    | .extract d => .inr (.inl (4, d))
    | .cmp a b => .inr (.inr (0, a, b))
    | .eq a b => .inr (.inr (1, a, b))
    | .copy a b => .inr (.inr (2, a, b))
  invFun
    | .inl (d, v) => .encConst d v
    | .inr (.inl (0, d)) => .encPort d
    | .inr (.inl (1, d)) => .encSkip d
    | .inr (.inl (2, d)) => .encBulk d
    | .inr (.inl (3, d)) => .render d
    | .inr (.inl (4, d)) => .extract d
    | .inr (.inr (0, a, b)) => .cmp a b
    | .inr (.inr (1, a, b)) => .eq a b
    | .inr (.inr (2, a, b)) => .copy a b
  left_inv i := by cases i <;> rfl
  right_inv x := by
    obtain ⟨d, v⟩ | ⟨op, d⟩ | ⟨op, a, b⟩ := x
    · rfl
    · fin_cases op <;> rfl
    · fin_cases op <;> rfl

/-- 4 x 256 + 5 x 4 + 3 x 4 x 4 (R87). -/
theorem Instr.card : Nat.card Instr = 1092 := by
  have hbyte : Nat.card Byte = 2 ^ 8 := (Nat.card_congr BitVec.equivFin.toEquiv).trans (Nat.card_fin _)
  rw [Nat.card_congr equivOperands]
  simp only [Nat.card_sum, Nat.card_prod, Nat.card_fin, hbyte, Nat.reducePow, Nat.reduceMul, Nat.reduceAdd]

/-- The word of a command, as a legal word (R87). -/
def Instr.legalWord (i : Instr) : { w : Word // ∃ i, decodeWord w = .ok i } := ⟨encode i, i, decodeOfEncode i⟩

/-- Encoding is a bijection from the commands to the legal words (R87). -/
theorem Instr.legalWord_bijective : Function.Bijective Instr.legalWord := by
  refine ⟨fun i j h => ?_, fun ⟨w, i, h⟩ => ⟨i, Subtype.ext (encode_of_decodeWord h)⟩⟩
  have hw : encode i = encode j := congrArg Subtype.val h
  exact Except.ok.inj ((decodeOfEncode i).symm.trans (hw ▸ decodeOfEncode j))

/-- Settles O3: there are as many legal words as commands. -/
theorem legalWordsAre1092 : Obligations.LegalWordsAre1092 :=
  (Nat.card_eq_of_bijective _ Instr.legalWord_bijective).symm.trans Instr.card

/-- Settles O6, by evaluating the decoder on each word. -/
theorem exampleWordsDecode : Obligations.ExampleWordsDecode := by
  unfold Obligations.ExampleWordsDecode
  decide

end Sys2Proof
end

section
/-! SUPPORT. The issue of a command (30_encoding R90): a CMD write of a legal word to an idle block is the issue of its
command, and what acceptance leaves: O17 to O19. -/

namespace Sys2Proof.Machine

/-- A turn of CORE while a command runs is that command's next step (R37, R87). -/
theorem coreTurn_running {s : State} {i : Instr} (hb : s.status.busy = true) (hr : s.seq.running = .ok i) :
    s.coreTurn = exec i s := by
  simp [State.coreTurn, hb, hr]

/-- A write of a legal word to CMD of an idle block is its command's issue, answered on the bus (R87, R90). -/
theorem writeReg_cmd {s : State} {w : Word} {i : Instr} (hb : s.status.busy = false) (hd : decodeWord w = .ok i) :
    s.writeReg .cmd w = exec i (s.respond .written) := by
  simp [State.writeReg, hb, State.issueWord, hd]

/-- Settles O17, by the rules of a CMD write and of a turn of CORE. -/
theorem stepRunsTheDecodedCommand : Obligations.StepRunsTheDecodedCommand := by
  refine ⟨fun s w i rest hi hb hd => ?_, fun s i rest hi hb hr => ?_, fun s i hi hb hr => ?_⟩
  · rw [step_wr hi]
    exact writeReg_cmd hb hd
  · rw [step_cons hi]
    exact coreTurn_running hb hr
  · rw [step_nil hi]
    exact coreTurn_running hb hr

theorem decodeWord_of_decodeTableWord {n w : Nat} {i : Instr} (h : decodeTableWord n w = some i) :
    decodeWord (BitVec.ofNat 32 (w % 2 ^ n)) = .ok i := by
  unfold decodeTableWord at h
  split at h
  · split at h
    · rename_i hd
      rw [hd, Option.some.inj h]
    · cases h
  · cases h

/-- Settles O18: the placed word is a CMD write that comes next, and the block is idle. -/
theorem placedWordIsIssued : Obligations.PlacedWordIsIssued := by
  intro s w i h
  obtain ⟨hissue, -⟩ := stepRunsTheDecodedCommand
  exact hissue (s.withFetchWord 32 w) _ i s.inputs rfl rfl (decodeWord_of_decodeTableWord h)

/-- An accepted command is latched with the values of TS and CTX, and `fb` shows its fallback as FALLBACK does (R90). -/
theorem IssueMove.latched {s t : State} {i : Instr} (m : IssueMove s i t)
    (hok : Instr.singleStep i = true ∨ s.cfg.entPresent = true) :
    t.seq.running = .ok i ∧ t.seq.ts = s.ts.val ∧ t.seq.ctx = s.ctx.val ∧ t.seq.fb = t.status.fallback := by
  cases m with
  | refused _ hs he => simp [hs, he] at hok
  | _ => exact ⟨decodeFields_fields _, rfl, rfl, rfl⟩

/-- The phase in which an accepted command starts (R90). -/
theorem IssueMove.phase {s t : State} {i : Instr} (m : IssueMove s i t)
    (hok : Instr.singleStep i = true ∨ s.cfg.entPresent = true) :
    (Instr.singleStep i = true → t.seq.phase = .exec) ∧ ((∃ d, i = .encPort d) → t.seq.phase = .tsWrite) ∧
    ((∃ d, i = .encBulk d) → t.seq.phase = if s.cfg.bulkPresent then .bulkWait else .tsWrite) := by
  cases m with
  | refused _ hs he => simp [hs, he] at hok
  | single _ hs =>
    refine ⟨fun _ => rfl, ?_, ?_⟩ <;> rintro ⟨d, rfl⟩ <;> cases hs
  | port d _ => simp [Instr.singleStep]
  | bulk d _ hp => simp [Instr.singleStep, hp]
  | bulkAbsent d _ hp => simp [Instr.singleStep, hp]

/-- Where the argument check has passed, FALLBACK is left by an ENC.BULK without the bulk port (R33, R90). -/
theorem IssueMove.fallback_accepted {s t : State} {i : Instr} (m : IssueMove s i t)
    (hok : Instr.singleStep i = true ∨ s.cfg.entPresent = true) :
    t.status.fallback = true ↔ (∃ d, i = .encBulk d) ∧ s.cfg.bulkPresent = false := by
  rw [m.fallback]
  refine and_congr_right ?_
  rintro ⟨d, rfl⟩
  simp [hok.resolve_left (by simp [Instr.singleStep])]

/-- Settles O19: what the issue leaves, field by field. -/
theorem issueLatchesOperands : Obligations.IssueLatchesOperands := by
  intro s w i rest hi hb hd hok
  obtain ⟨t, hstep, m⟩ := step_cmd hi hb hd
  obtain ⟨hbusy, herr⟩ := m.accepted hok
  obtain ⟨hrun, hts, hctx, hfb⟩ := m.latched hok
  obtain ⟨hframe, hovr⟩ := m.frame
  obtain ⟨hexec, hport, hbulk⟩ := m.phase hok
  have hfall := m.fallback_accepted hok
  exact ⟨t, hstep, hbusy, herr, m.degraded, hovr, hfall, hrun, hts, hctx, hfb ▸ hfall, hexec, hport, hbulk, hframe⟩

end Sys2Proof.Machine
end

section
/-! SUPPORT. The encode commands (40_encoder.md): the bytes they store, the steps of each, whole runs of ENC.PORT and of
ENC.BULK through its fallback, and the timestamp that EXTRACT gives back: O22 to O26, O47, O48, O51 and O52. -/

namespace Sys2Proof.Machine

/-! ## Words and issue -/

/-- A command has exactly one word (R82, R87). -/
theorem decodeWord_ok_iff_encode (w : Word) (i : Instr) : decodeWord w = .ok i ↔ w = encode i :=
  ⟨fun h => (encode_of_decodeWord h).symm, fun h => h ▸ decodeOfEncode i⟩

/-- A command of one CORE step is always accepted, into EXEC (R90). -/
theorem issuedInto_exec {i : Instr} (hs : Instr.singleStep i = true) : IssuedInto i (fun _ => True) .exec false := by
  intro s hb _
  obtain ⟨f, hf⟩ := exec_single i hs
  exact (hf s).trans (runSingle_idle hb)

theorem acceptIfEnt_present {f : State → State} {s : State} (he : s.cfg.entPresent = true) :
    s.acceptIfEnt f = f s := if_pos he

theorem acceptIfEnt_absent {f : State → State} {s : State} (he : s.cfg.entPresent = false) :
    s.acceptIfEnt f = s.cmdError .invalidArg := if_neg (by simp [he])

/-- A command whose issue looks for the byte port is refused without it (R191, R192). -/
theorem refusedWithoutEnt_of_acceptIfEnt {i : Instr} {f : State → State}
    (h : ∀ {s : State}, s.status.busy = false → exec i s = .next (s.acceptIfEnt f)) : RefusedWithoutEnt i := by
  intro s hb he
  rw [h hb, acceptIfEnt_absent he, State.cmdError, Status.failed, hb]

theorem acceptBulk_present {d : SlotId} {s : State} (hk : s.cfg.bulkPresent = true) :
    s.acceptBulk d = s.accept (.encBulk d) .bulkWait := if_pos hk

theorem acceptBulk_absent {d : SlotId} {s : State} (hk : s.cfg.bulkPresent = false) :
    s.acceptBulk d = (s.accept (.encBulk d) .tsWrite).fallBack := if_neg (by simp [hk])

theorem encPort_issuedInto (d : SlotId) :
    IssuedInto (.encPort d) (fun s => s.cfg.entPresent = true) .tsWrite false := by
  intro s hb he
  rw [exec_encPort_idle d hb, acceptIfEnt_present he]
  rfl

theorem encBulk_issuedInto_bulkWait (d : SlotId) :
    IssuedInto (.encBulk d) (fun s => s.cfg.entPresent = true ∧ s.cfg.bulkPresent = true) .bulkWait false := by
  intro s hb ⟨he, hk⟩
  rw [exec_encBulk_idle d hb, acceptIfEnt_present he, acceptBulk_present hk]
  rfl

theorem encBulk_issuedInto_tsWrite (d : SlotId) :
    IssuedInto (.encBulk d) (fun s => s.cfg.entPresent = true ∧ s.cfg.bulkPresent = false) .tsWrite true := by
  intro s hb ⟨he, hk⟩
  rw [exec_encBulk_idle d hb, acceptIfEnt_present he, acceptBulk_absent hk]
  rfl

/-- The CMD write of a command that is accepted into `phase` (R90). -/
theorem step_cmdInput {s : State} {i : Instr} {ok : State → Prop} {phase : Phase} {rest : List Input}
    (hissue : IssuedInto i ok phase false) (hb : s.status.busy = false)
    (hok : ok { s with inputs := rest, response := .written }) (hi : s.inputs = cmdInput i :: rest) :
    step s = .next (State.accept i phase { s with inputs := rest, response := .written }) := by
  obtain ⟨hcmd, -⟩ := stepRunsTheDecodedCommand
  exact (hcmd s _ i rest hi hb (decodeOfEncode i)).trans (hissue _ hb hok)

/-! ## The bytes an encode stores -/

theorem withTs_tsByte (t : Dword) (b : Slot) {k : Fin 16} (hk : k.val < 6) :
    (b.withTs t)[k] = .written (tsByte t k.val) := by
  rw [withTs_get, if_pos hk]

theorem withTs_entropy (t : Dword) (b : Slot) {k : Fin 16} (hk : 6 ≤ k.val) : (b.withTs t)[k] = b[k] := by
  rw [withTs_get, if_neg (by omega)]

theorem ofParts_tsByte (t : Dword) (e : Vector Byte 10) {k : Fin 16} (hk : k.val < 6) :
    (Slot.ofParts t e)[k] = .written (tsByte t k.val) := by
  rw [ofParts_get, dif_pos hk]

theorem ofParts_entropy (t : Dword) (e : Vector Byte 10) {k : Fin 16} (hk : 6 ≤ k.val) :
    (Slot.ofParts t e)[k] = .written (e[k.val - 6]'(by omega)) := by
  rw [ofParts_get, dif_neg (by omega)]

/-- The six bytes are the bits 47:0, so as one number they are the value modulo 2^48 (R100). -/
theorem ts48_toNat_of_tsBytes {b : Vector Byte 16} {t : Dword} (h : ∀ k : Fin 16, k.val < 6 → b[k] = tsByte t k.val) :
    (ts48 b).toNat = t.toNat % 2 ^ 48 := by
  have hbits : ts48 b = t.extractLsb' 0 48 := by
    have hbyte (k : Nat) (hk : k < 6) : b[k] = t.extractLsb' (40 - 8 * k) 8 := h ⟨k, by omega⟩ hk
    rw [ts48, hbyte 0 (by omega), hbyte 1 (by omega), hbyte 2 (by omega), hbyte 3 (by omega), hbyte 4 (by omega),
      hbyte 5 (by omega)]
    iterate 5 rw [BitVec.extractLsb'_append_extractLsb'_eq_extractLsb' (by norm_num)]
  rw [hbits, BitVec.extractLsb'_toNat, Nat.shiftRight_zero]

theorem ts48_withTs (t : Dword) (b : Slot) : (ts48 (b.withTs t).bytes).toNat = t.toNat % 2 ^ 48 :=
  ts48_toNat_of_tsBytes fun k hk => by simp [Slot.bytes, Slot.withTs, hk, Data.val]

theorem ts48_ofParts (t : Dword) (e : Vector Byte 10) : (ts48 (Slot.ofParts t e).bytes).toNat = t.toNat % 2 ^ 48 :=
  ts48_toNat_of_tsBytes fun k hk => by simp [Slot.bytes, Slot.ofParts, hk, Data.val]

/-- Settles O51: both slot builders store the six bytes of the value. -/
theorem timestampFieldIsTsMod2Pow48 : Obligations.TimestampFieldIsTsMod2Pow48 :=
  fun t b e => ⟨rfl, ts48_withTs t b, ts48_ofParts t e⟩

/-! ## ENC.CONST and ENC.SKIP -/

theorem slot_setSlot_complete (d : SlotId) (b : Slot) (s : State) : (s.setSlot d b).complete.slot d = b :=
  slot_setSlot_self d b s

/-- Settles O22, by the bytes of `Slot.ofParts`. -/
theorem encConstCommand : Obligations.EncConstCommand := by
  refine fun d v => ⟨fun w => decodeWord_ok_iff_encode w _, issuedInto_exec rfl, fun s hb hp => ?_⟩
  refine ⟨_, (exec_encConst d v s).trans (runSingle_exec hb hp), ?_⟩
  rw [slot_setSlot_complete]
  refine ⟨fun k => ofParts_tsByte _ _, fun k hk => ?_, fun e he => slot_setSlot_other he _ s, rfl⟩
  rw [ofParts_entropy _ _ hk, Vector.getElem_replicate]

/-- Settles O23, by the bytes of `Slot.withTs`. -/
theorem encSkipCommand : Obligations.EncSkipCommand := by
  refine fun d => ⟨fun w => decodeWord_ok_iff_encode w _, issuedInto_exec rfl, fun s hb hp => ?_⟩
  refine ⟨_, (exec_encSkip d s).trans (runSingle_exec hb hp), ?_⟩
  rw [slot_setSlot_complete]
  exact ⟨fun k => withTs_tsByte _ _, fun k => withTs_entropy _ _, fun e he => slot_setSlot_other he _ s, rfl⟩

/-- A command of one CORE step from its CMD write to its completion: two steps of the machine (R90). -/
theorem run_cmd_core {s : State} {i : Instr} {f : State → State} {rest : List Input} (n : Nat)
    (hf : ∀ u : State, exec i u = u.runSingle i f) (hb : s.status.busy = false)
    (hi : s.inputs = cmdInput i :: .core :: rest) :
    Host.Core.run core (n + 2) s = Host.Core.run core n
      (f (({ s with inputs := rest, response := .written } : State).accept i .exec)).complete := by
  obtain ⟨-, hcore, -⟩ := stepRunsTheDecodedCommand
  have hissue := step_cmdInput (ok := fun _ => True) (fun u hu _ => (hf u).trans (runSingle_idle hu)) hb trivial hi
  have htake : step (({ s with inputs := .core :: rest, response := .written } : State).accept i .exec) =
      .next (f (({ s with inputs := rest, response := .written } : State).accept i .exec)).complete := by
    rw [hcore _ i rest rfl rfl (Sequencer.running_latch _ _ _ _ _), hf]
    exact runSingle_exec rfl rfl
  rw [run_succ hissue, run_succ htake]

theorem run_encConst {s : State} {d : SlotId} {v : Byte} {rest : List Input} (n : Nat) (hb : s.status.busy = false)
    (hi : s.inputs = cmdInput (.encConst d v) :: .core :: rest) :
    ∃ t, Host.Core.run core (n + 2) s = Host.Core.run core n t ∧
      t.slot d = Slot.ofParts s.ts.val (Vector.replicate 10 v) ∧ t.status.busy = false ∧ t.inputs = rest :=
  ⟨_, run_cmd_core n (exec_encConst d v) hb hi, slot_setSlot_complete d _ _, rfl, rfl⟩

theorem run_extract {s : State} {d : SlotId} {rest : List Input} (n : Nat) (hb : s.status.busy = false)
    (hi : s.inputs = cmdInput (.extract d) :: .core :: rest) :
    ∃ t, Host.Core.run core (n + 2) s = Host.Core.run core n t ∧
      t.result = .ofVal (0#16 ++ ts48 (s.slot d).bytes) ∧ t.status.busy = false ∧ t.status.err = .ok :=
  ⟨_, run_cmd_core n (exec_extract d) hb hi, congrArg Reg64.ofVal (zext48 _), rfl, rfl⟩

/-- Settles O52: EXTRACT reads the timestamp field that ENC.CONST wrote. -/
theorem encodeThenExtractRoundTrip : Obligations.EncodeThenExtractRoundTrip := by
  intro s d v rest hb hi
  obtain ⟨u, hencode, hslot, hbusy, hinputs⟩ := run_encConst 2 hb hi
  obtain ⟨t, hextract, hresult, hdone⟩ := run_extract 0 hbusy hinputs
  refine ⟨t, hencode.trans hextract, ?_, hdone⟩
  rw [hresult, ofVal_val, zext48_toNat, hslot]
  exact ts48_ofParts s.ts.val _

/-! ## The steps of ENC.PORT -/

theorem slot_entStep_other {d e : SlotId} (he : e ≠ d) (a : EntAnswer) (s : State) :
    (s.entStep d a).slot e = s.slot e := by
  rw [slot_entStep, State.setSlotByte, slot_setSlot_other he]

theorem entStep_get (d : SlotId) (a : EntAnswer) (s : State) (k : Fin 16) :
    ((s.entStep d a).slot d)[k] = if k = s.seq.k then .written a.stored else (s.slot d)[k] := by
  rw [slot_entStep, setSlotByte_get]

theorem EntAnswer.mark_eq (a : EntAnswer) (t : Status) :
    a.mark t = { t with degraded := t.degraded || decide (a = .fail) } := by
  cases a <;> simp [EntAnswer.mark, Status.degrade]

/-- Besides the slots, an answer changes DEGRADED, is used up, and either completes the command or moves on to the next
index (R103 to R105). -/
theorem entStep_frame (d : SlotId) (a : EntAnswer) {s : State} (hb : s.status.busy = true) :
    s.entStep d a = { s with
      slots := (s.entStep d a).slots, entAnswer := none,
      status := { s.status with
        busy := decide (s.seq.k ≠ 15), degraded := s.status.degraded || decide (a = .fail) },
      seq := if s.seq.k = 15 then { s.seq with phase := .idle } else { s.seq with k := s.seq.k + 1 } } := by
  rw [entStep_slots, State.entStep, EntAnswer.mark_eq]
  by_cases hk : s.seq.k = 15
  · simp [hk, State.complete, Status.completed]
  · simp [hk, hb]

/-- Settles O24: the word, the issue, and one clause for each way `State.portStep` goes. -/
theorem encPortCommand : Obligations.EncPortCommand := by
  refine fun d => ⟨fun w => decodeWord_ok_iff_encode w _, encPort_issuedInto d,
    refusedWithoutEnt_of_acceptIfEnt (exec_encPort_idle d), fun s hb hp => ?_, fun s hb hp ha => ?_,
    fun s a hb hp ha => ?_⟩
  · refine ⟨_, (exec_port_busy d hb).trans (portStep_ts d hp), ?_⟩
    simp only [slot_tsWriteStep, slot_setSlot_self]
    exact ⟨fun k => withTs_tsByte _ _, fun k => withTs_entropy _ _, fun e he => slot_setSlot_other he _ s, rfl⟩
  · exact (exec_port_busy d hb).trans (portStep_wait d hp ha)
  · refine ⟨_, (exec_port_busy d hb).trans (portStep_ans d hp ha), ?_, fun k hk => ?_,
      fun e he => slot_entStep_other he a s, entStep_frame d a hb⟩
    · rw [entStep_get, if_pos rfl]
      cases a <;> rfl
    · rw [entStep_get, if_neg hk]

/-! ## The steps of ENC.BULK -/

theorem exec_bulk_ans (d : SlotId) {s : State} {a : BulkAnswer} (hb : s.status.busy = true)
    (hp : s.seq.phase = .bulkWait) (ha : s.bulkAnswer = some a) : exec (.encBulk d) s = .next (s.bulkStep d a) := by
  rw [exec_bulk_wait d hb hp, ha]

/-- Settles O25: the word, the issue, and one clause for each answer; the fallback is `bulkStep_fb`. -/
theorem encBulkCommand : Obligations.EncBulkCommand := by
  refine fun d => ⟨fun w => decodeWord_ok_iff_encode w _, encBulk_issuedInto_bulkWait d, encBulk_issuedInto_tsWrite d,
    refusedWithoutEnt_of_acceptIfEnt (exec_encBulk_idle d), fun s hb hp ha => ?_, fun s b hb hp ha => ?_,
    fun s a hb hp ha hne => ?_, fun s hb hp => ?_⟩
  · rw [exec_bulk_wait d hb hp, ha]
  · refine ⟨_, exec_bulk_ans d hb hp ha, ?_⟩
    simp only [slot_bulkOk, slot_setSlot_self]
    exact ⟨fun k => ofParts_tsByte _ _, fun k => ofParts_entropy _ _, fun e he => slot_setSlot_other he _ s, rfl⟩
  · rw [exec_bulk_ans d hb hp ha, bulkStep_fb d a s hne]
  · rw [exec_bulk_port d hb hp, exec_port_busy d hb]

theorem portStep_next (d : SlotId) {s : State} (hp : s.seq.phase = .tsWrite ∨ s.seq.phase = .entWait) :
    ∃ t, s.portStep d = .next t := by
  rcases hp with hp | hp
  · exact ⟨_, portStep_ts d hp⟩
  · cases ha : s.entAnswer with
    | none => exact ⟨_, portStep_wait d hp ha⟩
    | some a => exact ⟨_, portStep_ans d hp ha⟩

/-- Settles O26: the step is one of ENC.PORT, and what a step of CORE can change follows from its command. -/
theorem fallbackIsEncPort : Obligations.FallbackIsEncPort := by
  intro d s hb hp
  have hsame : exec (.encBulk d) s = exec (.encPort d) s := by rw [exec_bulk_port d hb hp, exec_port_busy d hb]
  obtain ⟨t, ht⟩ := portStep_next d hp
  have hport : exec (.encPort d) s = .next t := (exec_port_busy d hb).trans ht
  have m : CoreMove s (.encPort d) t := exec_core hb hport
  obtain ⟨hts, hctx, hcfg, -⟩ := m.frame
  have hfall : t.status.fallback = s.status.fallback := Bool.eq_iff_iff.2 (by simpa using m.fallback)
  have hslot (e : SlotId) (he : e ≠ d) : t.slot e = s.slot e := (m.slot e).resolve_right (by simp [he.symm])
  exact ⟨hsame, t, hsame.trans hport, hslot, hfall, hts, hctx, m.result.resolve_right (by simp),
    m.str.resolve_right (by simp), hcfg⟩

/-! ## Whole runs -/

/-- A port command with the destination `d` runs. -/
def State.encodesInto (d : SlotId) (s : State) : Prop :=
  s.status.busy = true ∧ (s.seq.running = .ok (.encPort d) ∨ s.seq.running = .ok (.encBulk d))

theorem State.encodesInto.accept_encPort (d : SlotId) (p : Phase) (s : State) :
    (s.accept (.encPort d) p).encodesInto d := ⟨rfl, .inl (decodeFields_fields (.encPort d))⟩

theorem State.encodesInto.fallBack_encBulk (d : SlotId) (p : Phase) (s : State) :
    (s.accept (.encBulk d) p).fallBack.encodesInto d := ⟨rfl, .inr (decodeFields_fields (.encBulk d))⟩

theorem State.encodesInto.busy {s : State} {d : SlotId} (h : s.encodesInto d) : s.status.busy = true := h.1

/-- In TSWRITE and ENTWAIT a turn of CORE is a step of ENC.PORT, for both port commands (R103, R109). -/
theorem State.encodesInto.step {s : State} {d : SlotId} {rest : List Input} (h : s.encodesInto d)
    (hp : s.seq.phase = .tsWrite ∨ s.seq.phase = .entWait) (hi : s.inputs = .core :: rest) :
    step s = ({ s with inputs := rest } : State).portStep d := by
  obtain ⟨hb, hr⟩ := h
  obtain ⟨-, hcore, -⟩ := stepRunsTheDecodedCommand
  rcases hr with hr | hr
  · rw [hcore s _ rest hi hb hr]
    exact exec_port_busy d hb
  · rw [hcore s _ rest hi hb hr]
    exact exec_bulk_port d hb hp

theorem step_ent {s : State} {a : EntAnswer} {rest : List Input} (hp : s.seq.phase = .entWait)
    (ha : s.entAnswer = none) (hi : s.inputs = .ent s.resets a :: rest) :
    step s = .next { s with inputs := rest, entAnswer := some a } := by
  rw [step_cons hi]
  simp [State.perform, State.entAnswers, State.entRequest, hp, ha]

theorem step_bulk {s : State} {a : BulkAnswer} {rest : List Input} (hp : s.seq.phase = .bulkWait)
    (ha : s.bulkAnswer = none) (hi : s.inputs = .bulk s.resets a :: rest) :
    step s = .next { s with inputs := rest, bulkAnswer := some a } := by
  rw [step_cons hi]
  simp [State.perform, State.bulkAnswers, State.bulkRequest, hp, ha]

theorem entStep_with (d : SlotId) (a : EntAnswer) (s : State) (held : Option EntAnswer) (rest : List Input) :
    State.entStep d a { s with inputs := rest, entAnswer := held } = { s.entStep d a with inputs := rest } := by
  unfold State.entStep
  split <;> rfl

/-- An answer of ENT and the turn of CORE that takes it (R103). -/
theorem run_answer {s : State} {d : SlotId} {a : EntAnswer} {rest : List Input} (n : Nat) (h : s.encodesInto d)
    (hp : s.seq.phase = .entWait) (ha : s.entAnswer = none) (hi : s.inputs = .ent s.resets a :: .core :: rest) :
    Host.Core.run core (n + 2) s = Host.Core.run core n { s.entStep d a with inputs := rest } := by
  have htake : step { s with inputs := .core :: rest, entAnswer := some a } =
      .next { s.entStep d a with inputs := rest } :=
    calc step { s with inputs := .core :: rest, entAnswer := some a }
      _ = State.portStep d { s with inputs := rest, entAnswer := some a } :=
        State.encodesInto.step (s := { s with inputs := .core :: rest, entAnswer := some a }) h (.inr hp) rfl
      _ = .next (State.entStep d a { s with inputs := rest, entAnswer := some a }) := portStep_ans d hp rfl
      _ = .next { s.entStep d a with inputs := rest } := congrArg _ (entStep_with d a s _ rest)
  rw [run_succ (step_ent hp ha hi), run_succ htake]

/-- The answers `l` to requests of the epoch `n`, a turn of CORE after each. -/
def answerInputs (n : Nat) (l : List EntAnswer) : List Input := l.flatMap fun x => [.ent n x, .core]

/-- From a state `s` that waits for byte `s.seq.k`, the answers `l` lead to `t`: they stand in the bytes from there on, and
the command has completed (R103 to R105, R110). -/
structure State.Answered (d : SlotId) (l : List EntAnswer) (s t : State) : Prop where
  stored : ∀ (k : Fin 16) (j : Nat) (hj : j < l.length), k.val = s.seq.k.val + j → (t.slot d)[k] = .written l[j].stored
  before : ∀ k : Fin 16, k.val < s.seq.k.val → (t.slot d)[k] = (s.slot d)[k]
  other : ∀ e, e ≠ d → t.slot e = s.slot e
  status : t.status = { s.status with busy := false, degraded := s.status.degraded || decide (EntAnswer.fail ∈ l) }
  phase : t.seq.phase = .idle
  ts : t.ts = s.ts
  ctx : t.ctx = s.ctx
  result : t.result = s.result
  str : t.str = s.str

/-- What the answers lead to does not depend on what happens next. -/
theorem State.Answered.of_inputs {s t : State} {d : SlotId} {l : List EntAnswer} {rest : List Input}
    (h : State.Answered d l { s with inputs := rest } t) : State.Answered d l s t :=
  { h with }

theorem State.Answered.with_inputs {s t : State} {d : SlotId} {l : List EntAnswer} (h : State.Answered d l s t)
    (rest : List Input) : State.Answered d l s { t with inputs := rest } :=
  { h with }

/-- The answer to the request of byte 15 completes the command (R104). -/
theorem State.Answered.last {s : State} (d : SlotId) (a : EntAnswer) (hb : s.status.busy = true) (hk : s.seq.k = 15) :
    State.Answered d [a] s (s.entStep d a) where
  stored k j hj hkj := by
    obtain rfl : j = 0 := by simpa using hj
    rw [entStep_get, if_pos (Fin.ext hkj)]
    rfl
  before k hlt := by rw [entStep_get, if_neg (by rintro rfl; exact lt_irrefl _ hlt)]
  other e he := slot_entStep_other he a s
  status := by rw [entStep_frame d a hb]; simp [hk, eq_comm]
  phase := by rw [entStep_frame d a hb]; simp [hk]
  ts := by rw [entStep_frame d a hb]
  ctx := by rw [entStep_frame d a hb]
  result := entStep_result d a s
  str := entStep_str d a s

theorem entStep_seq_of_ne {s : State} (d : SlotId) (a : EntAnswer) (hb : s.status.busy = true) (hk : s.seq.k ≠ 15) :
    (s.entStep d a).seq = { s.seq with k := s.seq.k + 1 } := by
  rw [entStep_frame d a hb, if_neg hk]

theorem entStep_k_of_ne {s : State} (d : SlotId) (a : EntAnswer) (hb : s.status.busy = true) (hk : s.seq.k ≠ 15) :
    (s.entStep d a).seq.k.val = s.seq.k.val + 1 := by
  rw [entStep_seq_of_ne d a hb hk]
  exact Fin.val_add_one_of_lt (Fin.lt_last_iff_ne_last.2 hk)

theorem State.encodesInto.entStep {s : State} {d : SlotId} (h : s.encodesInto d) (hk : s.seq.k ≠ 15) (a : EntAnswer) :
    (s.entStep d a).encodesInto d := by
  obtain ⟨hb, hr⟩ := h
  refine ⟨?_, ?_⟩
  · rw [entStep_frame d a hb]
    exact decide_eq_true hk
  · rw [entStep_seq_of_ne d a hb hk]
    exact hr

/-- Another answer leaves the command waiting for the next one, with its byte stored (R104). -/
theorem State.Answered.cons {s t : State} {d : SlotId} {a : EntAnswer} {l : List EntAnswer}
    (hb : s.status.busy = true) (hk : s.seq.k ≠ 15) (h : State.Answered d l (s.entStep d a) t) :
    State.Answered d (a :: l) s t := by
  have hnext := entStep_k_of_ne d a hb hk
  constructor
  case stored =>
    intro k j hj hkj
    cases j with
    | zero => rw [h.before k (by omega), entStep_get, if_pos (Fin.ext hkj)]; rfl
    | succ j => exact h.stored k j (by simpa using hj) (by omega)
  case before =>
    intro k hlt
    rw [h.before k (by omega), entStep_get, if_neg (by rintro rfl; exact lt_irrefl _ hlt)]
  case other => exact fun e he => (h.other e he).trans (slot_entStep_other he a s)
  case status => rw [h.status, entStep_frame d a hb]; simp [Bool.or_assoc, eq_comm]
  case phase => exact h.phase
  case ts => rw [h.ts, entStep_frame d a hb]
  case ctx => rw [h.ctx, entStep_frame d a hb]
  case result => exact h.result.trans (entStep_result d a s)
  case str => exact h.str.trans (entStep_str d a s)

/-- A waiting command that gets an answer to each request up to byte 15 completes, two steps for an answer: induction over
the answers, the state that waits being general. -/
theorem run_answers {d : SlotId} {rest : List Input} (l : List EntAnswer) : ∀ {s : State}, s.encodesInto d →
    s.seq.phase = .entWait → s.entAnswer = none → s.seq.k.val + l.length = 16 →
    s.inputs = answerInputs s.resets l ++ rest →
    ∃ t, Host.Core.run core (2 * l.length) s = .next t ∧ State.Answered d l s t ∧ t.inputs = rest := by
  induction l with
  | nil =>
    intro s _ _ _ hlen _
    have hk := s.seq.k.isLt
    rw [List.length_nil] at hlen
    omega
  | cons a l ih =>
    intro s h hp ha hlen hi
    rw [List.length_cons, Nat.mul_succ, run_answer (2 * l.length) h hp ha hi]
    rw [List.length_cons] at hlen
    have hb : s.status.busy = true := h.busy
    by_cases hk : s.seq.k = 15
    · have hk15 : s.seq.k.val = 15 := congrArg Fin.val hk
      obtain rfl : l = [] := List.length_eq_zero_iff.1 (by omega)
      exact ⟨_, rfl, (State.Answered.last d a hb hk).with_inputs rest, rfl⟩
    · have hnext := entStep_k_of_ne d a hb hk
      have hframe := entStep_frame d a hb
      obtain ⟨t, hrun, hans, hinputs⟩ := ih
        (s := { s.entStep d a with inputs := answerInputs s.resets l ++ rest })
        (h.entStep hk a) (by rw [entStep_seq_of_ne d a hb hk]; exact hp) (by rw [hframe]) (by simp only [hnext]; omega)
        (by rw [hframe])
      exact ⟨t, hrun, hans.of_inputs.cons hb hk, hinputs⟩

/-- A port command from its TSWRITE step on, with ten answers: the timestamp in bytes 0..5, and what the answers leave
(R103, R109). -/
theorem run_tsWrite {s : State} {d : SlotId} {a : Vector EntAnswer 10} {rest : List Input} (h : s.encodesInto d)
    (hp : s.seq.phase = .tsWrite) (ha : s.entAnswer = none)
    (hi : s.inputs = .core :: answerInputs s.resets a.toList ++ rest) :
    ∃ t, Host.Core.run core 21 s = .next t ∧
      (∀ k : Fin 16, k.val < 6 → (t.slot d)[k] = .written (tsByte s.seq.ts k.val)) ∧
      (∀ i : Fin 10, (t.slot d)[6 + i.val]'(by omega) = .written a[i].stored) ∧
      (∀ e, e ≠ d → t.slot e = s.slot e) ∧
      t.status = { s.status with
        busy := false, degraded := s.status.degraded || decide (EntAnswer.fail ∈ a.toList) } ∧
      t.seq.phase = .idle ∧ t.ts = s.ts ∧ t.ctx = s.ctx ∧ t.result = s.result ∧ t.str = s.str ∧ t.inputs = rest := by
  have hts : step s = .next (State.tsWriteStep d
      { s with inputs := answerInputs s.resets a.toList ++ rest }) := by
    rw [h.step (.inl hp) hi]
    exact portStep_ts d hp
  obtain ⟨t, hrun, hans, hinputs⟩ := run_answers (d := d) (rest := rest) a.toList
    (s := State.tsWriteStep d { s with inputs := answerInputs s.resets a.toList ++ rest })
    h rfl ha (by simp [State.tsWriteStep]) rfl
  rw [Vector.length_toList] at hrun
  refine ⟨t, (run_succ hts).trans hrun, fun k hk => ?_, fun i => ?_, fun e he => ?_, hans.status, hans.phase, hans.ts,
    hans.ctx, hans.result, hans.str, hinputs⟩
  · rw [hans.before k hk, slot_tsWriteStep, slot_setSlot_self]
    exact withTs_tsByte _ _ hk
  · have hstored := hans.stored ⟨6 + i.val, by omega⟩ i.val (by simp) rfl
    simpa using hstored
  · rw [hans.other e he, slot_tsWriteStep, slot_setSlot_other he]
    rfl

/-- Settles O47: the issue, and the run from TSWRITE. -/
theorem encPortRun : Obligations.EncPortRun := by
  intro s d a rest hb he ha hi
  have hissue := step_cmdInput (encPort_issuedInto d) hb he hi
  obtain ⟨t, hrun, hts, hent, hrest⟩ := run_tsWrite (a := a) (rest := rest)
    (State.encodesInto.accept_encPort d .tsWrite
      { s with inputs := .core :: answerInputs s.resets a.toList ++ rest, response := .written }) rfl ha rfl
  refine ⟨t, (run_succ hissue).trans hrun, hts, fun i => ?_, hrest⟩
  rw [hent i]
  cases a[i] <;> rfl

/-- ENC.BULK from its CMD write to its fallback: a bulk answer other than ten bytes, and the turn of CORE that takes it
(R108, R172). -/
theorem run_encBulk_fallback {s : State} {d : SlotId} {f : BulkAnswer} {rest : List Input} (n : Nat)
    (hb : s.status.busy = false) (he : s.cfg.entPresent = true) (hk : s.cfg.bulkPresent = true)
    (ha : s.bulkAnswer = none) (hf : ∀ b, f ≠ .got 10 b)
    (hi : s.inputs = cmdInput (.encBulk d) :: .bulk s.resets f :: .core :: rest) :
    Host.Core.run core (n + 3) s = Host.Core.run core n (State.fallBack (State.accept (.encBulk d) .bulkWait
      { s with inputs := rest, response := .written, bulkAnswer := none })) := by
  obtain ⟨-, hcore, -⟩ := stepRunsTheDecodedCommand
  have hissue := step_cmdInput (encBulk_issuedInto_bulkWait d) hb ⟨he, hk⟩ hi
  have hanswer := step_bulk (a := f) (rest := .core :: rest) (s := State.accept (.encBulk d) .bulkWait
    { s with inputs := .bulk s.resets f :: .core :: rest, response := .written }) rfl ha rfl
  have htake := (hcore (State.accept (.encBulk d) .bulkWait
    { s with inputs := .core :: rest, response := .written, bulkAnswer := some f }) _ rest rfl rfl
    (Sequencer.running_latch _ _ _ _ _)).trans ((exec_bulk_ans d rfl rfl rfl).trans (congrArg _ (bulkStep_fb d f _ hf)))
  exact (run_succ hissue).trans ((run_succ hanswer).trans (run_succ htake))

/-- Settles O48: the run up to the fallback, and the run from TSWRITE. -/
theorem encBulkFallbackRun : Obligations.EncBulkFallbackRun := by
  intro s d f a rest hb he hk ha hka hf hi
  have hfall := run_encBulk_fallback 21 hb he hk hka hf hi
  obtain ⟨t, hrun, hts, hent, hrest⟩ := run_tsWrite (a := a) (rest := rest)
    (State.encodesInto.fallBack_encBulk d .bulkWait { s with
      inputs := .core :: answerInputs s.resets a.toList ++ rest, response := .written, bulkAnswer := none }) rfl ha rfl
  refine ⟨t, hfall.trans hrun, hts, fun i => ?_, hrest⟩
  rw [hent i]
  cases a[i] <;> rfl

end Sys2Proof.Machine
end

section
/-! SUPPORT. The codec (41_codec.md): RENDER and EXTRACT, the schedule of R132 as the grouping of R131, which field each
character draws on, and the order of the strings: O27, O28 and O53 to O56. -/

namespace Sys2Proof.Machine

/-! ## RENDER and EXTRACT -/

theorem renderByte_of_lt {i : Nat} (v : Ident) (hi : i < 26) : renderByte v i = charCode (group v i) := if_pos hi

/-- Settles O27: the string stored is `renderStr` of the slot. -/
theorem renderCommand : Obligations.RenderCommand := by
  refine fun d => ⟨fun w => decodeWord_ok_iff_encode w _, issuedInto_exec rfl, fun s hb hp => ?_⟩
  refine ⟨_, (exec_render d s).trans (runSingle_exec hb hp), fun i hi => ?_, renderStr_get _ 26, frame_setStr _ s⟩
  rw [str_render, renderStr_get, renderByte_of_lt _ hi]
  rfl

/-- Settles O28: RESULT is the timestamp field under 16 zero bits. -/
theorem extractCommand : Obligations.ExtractCommand := by
  refine fun d => ⟨fun w => decodeWord_ok_iff_encode w _, issuedInto_exec rfl, fun s hb hp => ?_⟩
  refine ⟨_, (exec_extract d s).trans (runSingle_exec hb hp), ?_⟩
  rw [zext48, State.complete_result, State.setResult_result, ofVal_val, zext48_toNat]
  exact ⟨rfl, rfl, (ts48 (s.slotBytes d)).isLt, rfl⟩

/-! ## The groups as bits of the identifier -/

/-- The second form of R131, `g_i = (V >> (125 - 5i)) & 0x1F`: the two pad bits add nothing. -/
theorem group_eq_extractLsb' (v : Ident) (i : Nat) : group v i = v.extractLsb' (125 - 5 * i) 5 := by
  refine BitVec.eq_of_getLsbD_eq fun k hk => ?_
  rw [group, BitVec.getLsbD_extractLsb', BitVec.getLsbD_extractLsb', BitVec.getLsbD_append]
  split
  · rfl
  · rw [BitVec.getLsbD_zero, BitVec.getLsbD_of_ge v _ (by omega)]

theorem group_toNat (v : Ident) (i : Nat) : (group v i).toNat = v.toNat / 2 ^ (125 - 5 * i) % 32 := by
  rw [group_eq_extractLsb', BitVec.extractLsb'_toNat, Nat.shiftRight_eq_div_pow]

/-! ## The schedule -/

/-- The value of the bit of the slot that is named, and 0 where none is. -/
def bitAt (b : Vector Byte 16) : Option (Fin 16 × Nat) → Bool
  | some (j, n) => b[j].getLsbD n
  | none => false

/-- The bit of the slot that a row puts in bit `k` of the character, from its high or from its low part (R132). -/
def ScheduleRow.source (r : ScheduleRow) (k : Nat) : Option (Fin 16 × Nat) :=
  if (r.hiMask <<< r.hiShift).getLsbD k = true then some (r.hi, k - r.hiShift)
  else if r.loMask.getLsbD k = true then some (r.lo, r.loShift + k)
  else none

/-- The bit of the slot that is bit `k` of group `i` (R131, with byte 0 most significant by R8). -/
def groupSource (i k : Nat) : Option (Fin 16 × Nat) :=
  if k < 5 ∧ 125 - 5 * i + k < 128 then some (Fin.ofNat 16 (15 - (125 - 5 * i + k) / 8), (125 - 5 * i + k) % 8)
  else none

/-- No bit of a character is taken from both parts of a row. -/
def ScheduleRow.disjoint (r : ScheduleRow) : Prop := r.hiMask <<< r.hiShift &&& r.loMask = 0

theorem extract_getLsbD {r : ScheduleRow} (hr : r.disjoint) (b : Vector Byte 16) (k : Nat) :
    (r.extract b).getLsbD k = bitAt b (r.source k) := by
  have hone : ((r.hiMask <<< r.hiShift).getLsbD k && r.loMask.getLsbD k) = false := by
    rw [← BitVec.getLsbD_and, hr]
    exact BitVec.getLsbD_zero
  rw [ScheduleRow.extract, BitVec.shiftLeft_and_distrib, BitVec.getLsbD_or, BitVec.getLsbD_and, BitVec.getLsbD_and,
    BitVec.getLsbD_ushiftRight, ScheduleRow.source]
  split_ifs with hhi hlo
  · rw [hhi, Bool.true_and] at hone
    rw [BitVec.getLsbD_shiftLeft, Bool.and_assoc, Bool.and_eq_true, Bool.and_eq_true] at hhi
    obtain ⟨hk, hshift, hmask⟩ := hhi
    simp only [hone, BitVec.getLsbD_shiftLeft, hk, hshift, hmask, bitAt, Bool.true_and, Bool.and_true, Bool.and_false,
      Bool.or_false]
  · simp only [hhi, hlo, bitAt, Bool.and_false, Bool.false_or, Bool.and_true]
  · simp only [hhi, hlo, bitAt, Bool.and_false, Bool.or_false]

theorem group_getLsbD (b : Vector Byte 16) (i k : Nat) :
    (group (val128 b) i).getLsbD k = bitAt b (groupSource i k) := by
  rw [group_eq_extractLsb', BitVec.getLsbD_extractLsb', groupSource]
  split_ifs with h
  · obtain ⟨hk, hbit⟩ := h
    have hbyte : (Fin.ofNat 16 (15 - (125 - 5 * i + k) / 8)).val = 15 - (125 - 5 * i + k) / 8 :=
      Nat.mod_eq_of_lt (by omega)
    simp only [decide_eq_true hk, Bool.true_and, val128_getLsbD b _ hbit, bitAt, Fin.getElem_fin, hbyte]
  · rcases Decidable.not_and_iff_not_or_not.1 h with hk | hbit
    · rw [decide_eq_false hk, Bool.false_and, bitAt]
    · rw [BitVec.getLsbD_of_ge _ _ (Nat.not_lt.1 hbit), Bool.and_false, bitAt]

/-- The table of R132 is right: 26 rows, 8 bits each. -/
theorem schedule_source : ∀ (i : Fin 26) (k : Fin 8), (schedule[i]).source k.val = groupSource i.val k.val := by decide

theorem schedule_disjoint (i : Fin 26) : (schedule[i]).disjoint := by
  revert i; unfold ScheduleRow.disjoint; decide

/-- Settles O53: each bit of a character has the same source by the schedule and by the grouping. -/
theorem scheduleIsTheGrouping : Obligations.ScheduleIsTheGrouping := by
  refine fun b i => BitVec.eq_of_getLsbD_eq fun k hk => ?_
  rw [extract_getLsbD (schedule_disjoint i), schedule_source i ⟨k, hk⟩, ← group_getLsbD, BitVec.getLsbD_setWidth,
    decide_eq_true hk, Bool.true_and]

/-! ## The fields of an identifier -/

theorem val128_timestamp (b : Vector Byte 16) : (val128 b).extractLsb' 80 48 = ts48 b :=
  BitVec.extractLsb'_append_eq_left

theorem val128_entropy (b : Vector Byte 16) : (val128 b).extractLsb' 0 80 = ent80 b :=
  BitVec.extractLsb'_append_eq_right

/-- Bits at and above bit 80 are bits of the timestamp field. -/
theorem getLsbD_timestamp (v : Ident) (n : Nat) : v.getLsbD (80 + n) = (v.extractLsb' 80 48).getLsbD n := by
  rw [BitVec.getLsbD_extractLsb']
  by_cases hn : n < 48
  · rw [decide_eq_true hn, Bool.true_and]
  · rw [decide_eq_false hn, BitVec.getLsbD_of_ge v _ (by omega), Bool.false_and]

/-- Groups 0..9 are bits of the timestamp field (R136). -/
theorem group_of_lt_ten (v : Ident) {i : Nat} (hi : i < 10) :
    group v i = (v.extractLsb' 80 48).extractLsb' (45 - 5 * i) 5 := by
  refine BitVec.eq_of_getLsbD_eq fun k hk => ?_
  rw [group_eq_extractLsb', BitVec.getLsbD_extractLsb', BitVec.getLsbD_extractLsb', ← getLsbD_timestamp]
  congr 2
  omega

/-- Groups 10..25 are bits of the entropy field (R136). -/
theorem group_of_ten_le (v : Ident) {i : Nat} (hi : 10 ≤ i) :
    group v i = (v.extractLsb' 0 80).extractLsb' (125 - 5 * i) 5 := by
  rw [group_eq_extractLsb', BitVec.extractLsb'_extractLsb'_of_le (by omega)]

theorem renderByte_congr_timestamp {v w : Ident} (h : v.extractLsb' 80 48 = w.extractLsb' 80 48) {i : Nat}
    (hi : i < 10) : renderByte v i = renderByte w i := by
  rw [renderByte, renderByte, group_of_lt_ten v hi, group_of_lt_ten w hi, h]

theorem renderByte_congr_entropy {v w : Ident} (h : v.extractLsb' 0 80 = w.extractLsb' 0 80) {i : Nat}
    (hi : 10 ≤ i) : renderByte v i = renderByte w i := by
  rw [renderByte, renderByte, group_of_ten_le v hi, group_of_ten_le w hi, h]

/-- Settles O55, by the field each group is taken from. -/
theorem fieldPartitionOfTheString : Obligations.FieldPartitionOfTheString := by
  refine fun b c => ⟨fun h i hi => ?_, fun h i hi _ => ?_⟩
  · exact renderByte_congr_timestamp (by rw [val128_timestamp, val128_timestamp, h]) hi
  · exact renderByte_congr_entropy (by rw [val128_entropy, val128_entropy, h]) hi

/-! ## The order of the strings -/

/-- The codes of the alphabet increase with the index (R130, R137). -/
theorem charCode_lt_iff : ∀ g h : BitVec 5, charCode g < charCode h ↔ g < h := by decide

theorem charCode_injective : Function.Injective charCode := by
  intro g h heq
  refine BitVec.le_antisymm ?_ ?_ <;> rw [← BitVec.not_lt, ← charCode_lt_iff, heq] <;> exact BitVec.lt_irrefl _

/-- The groups 0..j-1 of an identifier as one number: the `5 * j` leading bits of `P` (R131). -/
def leadingGroups (v : Ident) (j : Nat) : Nat := v.toNat / 2 ^ (130 - 5 * j)

theorem leadingGroups_zero (v : Ident) : leadingGroups v 0 = 0 := Nat.div_eq_of_lt (by omega)

theorem leadingGroups_all (v : Ident) : leadingGroups v 26 = v.toNat := Nat.div_one _

theorem leadingGroups_succ (v : Ident) {j : Nat} (hj : j < 26) :
    leadingGroups v (j + 1) = 32 * leadingGroups v j + (group v j).toNat := by
  have hpow : 2 ^ (130 - 5 * j) = 2 ^ (125 - 5 * j) * 32 := by
    rw [show 130 - 5 * j = 125 - 5 * j + 5 by omega, Nat.pow_add]
  rw [leadingGroups, leadingGroups, group_toNat, hpow, ← Nat.div_div_eq_div_mul, Nat.div_add_mod]
  congr 2
  omega

theorem leadingGroups_eq_iff (v w : Ident) {j : Nat} (hj : j ≤ 26) :
    leadingGroups v j = leadingGroups w j ↔ ∀ i, i < j → group v i = group w i := by
  induction j with
  | zero => simp [leadingGroups_zero]
  | succ j ih =>
    rw [Nat.forall_lt_succ_right, ← ih (by omega), leadingGroups_succ v hj, leadingGroups_succ w hj, ← BitVec.toNat_inj]
    omega

/-- Numbers compare by the first group in which they differ. -/
theorem leadingGroups_lt_iff (v w : Ident) {n : Nat} (hn : n ≤ 26) :
    leadingGroups v n < leadingGroups w n ↔
      ∃ j, j < n ∧ (∀ i, i < j → group v i = group w i) ∧ group v j < group w j := by
  induction n with
  | zero => simp [leadingGroups_zero]
  | succ n ih =>
    rw [Nat.exists_lt_succ_right, ← ih (by omega), ← leadingGroups_eq_iff v w (by omega), leadingGroups_succ v hn,
      leadingGroups_succ w hn, BitVec.lt_def]
    omega

theorem renderByte_eq_iff {v w : Ident} {i : Nat} (hi : i < 26) :
    renderByte v i = renderByte w i ↔ group v i = group w i := by
  rw [renderByte_of_lt v hi, renderByte_of_lt w hi, charCode_injective.eq_iff]

theorem renderByte_lt_iff {v w : Ident} {i : Nat} (hi : i < 26) :
    renderByte v i < renderByte w i ↔ group v i < group w i := by
  rw [renderByte_of_lt v hi, renderByte_of_lt w hi, charCode_lt_iff]

/-- Settles O56: the codes compare as the groups do, and the groups as the digits of the identifier in base 32. -/
theorem stringsSortAsIdentifiers : Obligations.StringsSortAsIdentifiers := by
  intro v w
  rw [BitVec.lt_def, ← leadingGroups_all v, ← leadingGroups_all w, leadingGroups_lt_iff v w le_rfl]
  refine exists_congr fun j => and_congr_right fun hj => and_congr (forall₂_congr fun i hi => ?_) ?_
  · exact (renderByte_eq_iff (hi.trans hj)).symm
  · exact (renderByte_lt_iff hj).symm

/-! ## Properties of the string -/

theorem charCode_mem_alphabet (g : BitVec 5) : charCode g ∈ alphabet.toList :=
  Vector.mem_toList_iff.2 (Vector.getElem_mem _)

theorem group_zero_lt (v : Ident) : (group v 0).toNat < 8 := by
  rw [group_toNat]
  omega

/-- The first eight symbols are the digits 0..7 (R130). -/
theorem charCode_of_lt_eight : ∀ g : BitVec 5, g.toNat < 8 → 0x30 ≤ (charCode g).toNat ∧ (charCode g).toNat ≤ 0x37 := by
  decide

/-- Distinct identifiers give distinct strings (R135 d). -/
theorem eq_of_renderByte_eq {v w : Ident} (h : ∀ i, i < 26 → renderByte v i = renderByte w i) : v = w := by
  refine BitVec.eq_of_toNat_eq ?_
  rw [← leadingGroups_all v, ← leadingGroups_all w, leadingGroups_eq_iff v w le_rfl]
  exact fun i hi => (renderByte_eq_iff hi).1 (h i hi)

/-- Settles O54: the boundary timestamps by one identifier of each, since no other field matters to characters 0..9. -/
theorem propertiesOfRender : Obligations.PropertiesOfRender := by
  refine ⟨fun v i hi => ?_, fun v => ?_, fun v w => eq_of_renderByte_eq, fun v hv i hi => ?_, fun v hv => ?_⟩
  · rw [renderByte_of_lt v hi]
    exact charCode_mem_alphabet _
  · rw [renderByte_of_lt v (by decide)]
    exact charCode_of_lt_eight _ (group_zero_lt v)
  · rw [renderByte_congr_timestamp (w := 0) hv hi]
    revert i
    decide
  · have hmax {i : Nat} : i < 10 → renderByte v i = renderByte (BitVec.allOnes 128) i :=
      renderByte_congr_timestamp (hv.trans (by decide))
    refine ⟨(hmax (by decide)).trans (by decide), fun i hlo hi => ?_⟩
    rw [hmax hi]
    revert i
    decide

end Sys2Proof.Machine
end

section
/-! SUPPORT. The identifier commands (42_identifier_ops.md): CMP as the order of the identifiers read as numbers, the laws
of CMP and EQ, and the commands themselves: O29 to O31 and O57 to O59. -/

namespace Sys2Proof.Machine

/-! ## Bytes as numbers -/

/-- A sequence of bytes as one number, the first byte most significant (R8). -/
def bytesNat (l : List Byte) : Nat := Nat.ofDigits 256 (l.map BitVec.toNat).reverse

theorem bytesNat_nil : bytesNat [] = 0 := rfl

theorem bytesNat_cons (a : Byte) (l : List Byte) : bytesNat (a :: l) = bytesNat l + 256 ^ l.length * a.toNat := by
  rw [bytesNat, List.map_cons, Nat.ofDigits_reverse_cons, List.length_map, bytesNat]

theorem bytesNat_digit_lt (l : List Byte) : ∀ n ∈ (l.map BitVec.toNat).reverse, n < 256 := by
  simp only [List.mem_reverse, List.mem_map]
  rintro _ ⟨a, -, rfl⟩
  exact a.isLt

theorem bytesNat_lt (l : List Byte) : bytesNat l < 256 ^ l.length := by
  simpa [bytesNat] using Nat.ofDigits_lt_base_pow_length (by decide) (bytesNat_digit_lt l)

/-- A smaller first byte decides, whatever follows. -/
theorem bytesNat_cons_lt_of_lt {a b : Byte} {l m : List Byte} (hlen : l.length = m.length) (h : a.toNat < b.toNat) :
    bytesNat (a :: l) < bytesNat (b :: m) := by
  rw [bytesNat_cons, bytesNat_cons, ← hlen]
  calc bytesNat l + 256 ^ l.length * a.toNat
    _ < 256 ^ l.length + 256 ^ l.length * a.toNat := Nat.add_lt_add_right (bytesNat_lt l) _
    _ = 256 ^ l.length * (a.toNat + 1) := by ring
    _ ≤ 256 ^ l.length * b.toNat := Nat.mul_le_mul_left _ h
    _ ≤ bytesNat m + 256 ^ l.length * b.toNat := Nat.le_add_left _ _

/-- The three-way result of CMP on two numbers (R150). -/
def threeWay (m n : Nat) : Dword := if m < n then 0xFFFF_FFFF_FFFF_FFFF else if m = n then 0 else 1

theorem threeWay_of_lt {m n : Nat} (h : m < n) : threeWay m n = 0xFFFF_FFFF_FFFF_FFFF := if_pos h

theorem threeWay_self (n : Nat) : threeWay n n = 0 := by rw [threeWay, if_neg (lt_irrefl n), if_pos rfl]

theorem threeWay_of_gt {m n : Nat} (h : n < m) : threeWay m n = 1 := by
  rw [threeWay, if_neg h.not_gt, if_neg h.ne']

theorem threeWay_add_right (m n k : Nat) : threeWay (m + k) (n + k) = threeWay m n := by
  simp only [threeWay, Nat.add_lt_add_iff_right, Nat.add_right_cancel_iff]

theorem threeWay_toNat {w : Nat} (x y : BitVec w) :
    threeWay x.toNat y.toNat = if x < y then 0xFFFF_FFFF_FFFF_FFFF else if x = y then 0 else 1 := by
  simp only [threeWay, BitVec.lt_def, BitVec.toNat_inj]

/-- The three results are distinct, so each stands for one order of the numbers. -/
theorem threeWay_iff (m n : Nat) : (threeWay m n = 0xFFFF_FFFF_FFFF_FFFF ↔ m < n) ∧ (threeWay m n = 0 ↔ m = n) ∧
    (threeWay m n = 1 ↔ n < m) := by
  rcases Nat.lt_trichotomy m n with h | rfl | h
  · simp [threeWay_of_lt h, h, h.ne, h.not_gt]
  · simp [threeWay_self]
  · simp [threeWay_of_gt h, h, h.ne', h.not_gt]

/-- The first bytes that differ order two sequences of one length as the numbers they stand for: induction over both
(R150). -/
theorem compareBytes_eq_threeWay : ∀ {l m : List Byte}, l.length = m.length →
    compareBytes l m = threeWay (bytesNat l) (bytesNat m)
  | [], [], _ => rfl
  | a :: l, b :: m, hlen => by
    replace hlen : l.length = m.length := by simpa using hlen
    rw [compareBytes]
    rcases Nat.lt_trichotomy a.toNat b.toNat with hab | hab | hba
    · rw [if_neg (by rintro rfl; exact lt_irrefl _ hab), if_pos hab, threeWay_of_lt (bytesNat_cons_lt_of_lt hlen hab)]
    · obtain rfl := BitVec.eq_of_toNat_eq hab
      rw [if_pos rfl, compareBytes_eq_threeWay hlen, bytesNat_cons, bytesNat_cons, hlen, threeWay_add_right]
    · rw [if_neg (by rintro rfl; exact lt_irrefl _ hba), if_neg hba.not_gt,
        threeWay_of_gt (bytesNat_cons_lt_of_lt hlen.symm hba)]

/-- Two sequences of one length that stand for one number are the same: digits in base 256 are unique. -/
theorem eq_of_bytesNat_eq {l m : List Byte} (hlen : l.length = m.length) (h : bytesNat l = bytesNat m) : l = m := by
  have hmap := Nat.ofDigits_inj_of_len_eq (by decide) (by simpa using hlen) (bytesNat_digit_lt l)
    (bytesNat_digit_lt m) h
  exact List.map_injective_iff.2 BitVec.toNat_injective (List.reverse_injective hmap)

theorem toNat_append_eq_add {m n : Nat} (x : BitVec m) (y : BitVec n) :
    (x ++ y).toNat = x.toNat * 2 ^ n + y.toNat := by
  rw [BitVec.toNat_append, ← Nat.shiftLeft_add_eq_or_of_lt y.isLt, Nat.shiftLeft_eq]

theorem val128_toNat_fields (b : Vector Byte 16) : (val128 b).toNat = (ts48 b).toNat * 2 ^ 80 + (ent80 b).toNat :=
  toNat_append_eq_add (ts48 b) (ent80 b)

theorem toList_eq_bytes (b : Vector Byte 16) : b.toList =
    [b[0], b[1], b[2], b[3], b[4], b[5], b[6], b[7], b[8], b[9], b[10], b[11], b[12], b[13], b[14], b[15]] := by
  refine List.ext_getElem (by simp) fun i hi _ => ?_
  rw [Vector.length_toList] at hi
  rw [Vector.getElem_toList]
  interval_cases i <;> rfl

/-- The identifier is its 16 bytes as one number (R8, R22). -/
theorem val128_toNat (b : Vector Byte 16) : (val128 b).toNat = bytesNat b.toList := by
  have hts : (ts48 b).toNat = BitVec.toNat (w := 8 + 8 + 8 + 8 + 8 + 8)
      (b[0] ++ b[1] ++ b[2] ++ b[3] ++ b[4] ++ b[5]) := rfl
  have hent : (ent80 b).toNat = BitVec.toNat (w := 8 + 8 + 8 + 8 + 8 + 8 + 8 + 8 + 8 + 8)
      (b[6] ++ b[7] ++ b[8] ++ b[9] ++ b[10] ++ b[11] ++ b[12] ++ b[13] ++ b[14] ++ b[15]) := rfl
  rw [val128_toNat_fields, hts, hent, toList_eq_bytes]
  simp only [toNat_append_eq_add, bytesNat_cons, bytesNat_nil, List.length_cons, List.length_nil]
  ring

theorem cmpResult_eq_threeWay (b c : Vector Byte 16) :
    cmpResult b c = threeWay (val128 b).toNat (val128 c).toNat := by
  rw [cmpResult, compareBytes_eq_threeWay (by simp), val128_toNat, val128_toNat]

/-- Settles O57: byte by byte the slots compare as the numbers they stand for. -/
theorem cmpIsTheOrderOfIdentifiers : Obligations.CmpIsTheOrderOfIdentifiers := fun b c =>
  (cmpResult_eq_threeWay b c).trans (threeWay_toNat _ _)

/-! ## The laws of CMP and EQ -/

/-- Distinct slots stand for distinct numbers (R8). -/
theorem val128_toNat_inj {b c : Vector Byte 16} : (val128 b).toNat = (val128 c).toNat ↔ b = c := by
  refine ⟨fun h => ?_, fun h => by rw [h]⟩
  rw [val128_toNat, val128_toNat] at h
  exact Vector.toList_inj.1 (eq_of_bytesNat_eq (by simp) h)

theorem eqResult_eq_one_iff {b c : Vector Byte 16} : eqResult b c = 1 ↔ b = c := by
  rw [eqResult]
  split_ifs with h <;> simp [h]

theorem eqResult_comm (b c : Vector Byte 16) : eqResult b c = eqResult c b := by
  simp only [eqResult, eq_comm]

/-- CMP is the strict order of the values (R150, R153). -/
theorem cmpResult_iff (b c : Vector Byte 16) :
    (cmpResult b c = 0xFFFF_FFFF_FFFF_FFFF ↔ (val128 b).toNat < (val128 c).toNat) ∧ (cmpResult b c = 0 ↔ b = c) ∧
    (cmpResult b c = 1 ↔ (val128 c).toNat < (val128 b).toNat) := by
  rw [cmpResult_eq_threeWay, ← val128_toNat_inj]
  exact threeWay_iff _ _

/-- Settles O58: CMP is the strict order of the values, EQ their equality. -/
theorem orderLaws : Obligations.OrderLaws := by
  intro a b c
  obtain ⟨hablt, habeq, habgt⟩ := cmpResult_iff a b
  obtain ⟨hbclt, -, -⟩ := cmpResult_iff b c
  obtain ⟨haclt, -, -⟩ := cmpResult_iff a c
  obtain ⟨-, -, hbagt⟩ := cmpResult_iff b a
  have htotal := lt_trichotomy (val128 a).toNat (val128 b).toNat
  rw [val128_toNat_inj] at htotal
  rw [hablt, habeq, habgt, hbclt, haclt, hbagt, eqResult_eq_one_iff, eqResult_eq_one_iff, eqResult_eq_one_iff,
    eqResult_eq_one_iff]
  exact ⟨Iff.rfl, Iff.rfl, lt_trans, htotal, rfl, eqResult_comm a b, Eq.trans⟩

/-- Settles O59: the timestamp field is the high part of the number, the entropy field the low part. -/
theorem timestampDominatesTheOrder : Obligations.TimestampDominatesTheOrder := by
  intro b c
  rw [cmpResult_eq_threeWay, val128_toNat_fields, val128_toNat_fields]
  refine ⟨fun hlt => threeWay_of_lt ?_, fun heq => ?_⟩
  · rw [BitVec.lt_def] at hlt
    omega
  · rw [heq, Nat.add_comm, Nat.add_comm _ (ent80 c).toNat, threeWay_add_right, threeWay_toNat]

/-! ## The commands -/

/-- The first byte in which two slots differ decides (R150). -/
theorem cmpResult_of_first_ne {a b : Vector Byte 16} (j : Fin 16) (hpre : ∀ i : Fin 16, i < j → a[i] = b[i])
    (hne : a[j] ≠ b[j]) :
    cmpResult a b = if a[j].toNat < b[j].toNat then 0xFFFF_FFFF_FFFF_FFFF else 1 :=
  compareBytes_first a.toList b.toList (by simp) j.val (by simp) (fun i hi => hpre ⟨i, by omega⟩ hi) hne

/-- Settles O29: the first bytes that differ decide. -/
theorem cmpCommand : Obligations.CmpCommand := by
  refine fun a b => ⟨fun w => decodeWord_ok_iff_encode w _, issuedInto_exec rfl, fun s hb hp => ?_⟩
  refine ⟨_, (exec_cmp a b s).trans (runSingle_exec hb hp), ?_⟩
  rw [State.complete_result, State.setResult_result]
  refine ⟨fun h => ?_, fun j hpre => ?_, rfl⟩
  · rw [h, cmpResult, compareBytes_same]
  · refine ⟨fun hlt => ?_, fun hgt => ?_⟩
    · rw [cmpResult_of_first_ne j hpre (ne_of_apply_ne BitVec.toNat hlt.ne), if_pos hlt]
    · rw [cmpResult_of_first_ne j hpre (ne_of_apply_ne BitVec.toNat hgt.ne'), if_neg hgt.not_gt]

/-- Settles O30: two slots are the same when all 16 bytes are. -/
theorem eqCommand : Obligations.EqCommand := by
  refine fun a b => ⟨fun w => decodeWord_ok_iff_encode w _, issuedInto_exec rfl, fun s hb hp => ?_⟩
  refine ⟨_, (exec_eq a b s).trans (runSingle_exec hb hp), ?_⟩
  rw [State.complete_result, State.setResult_result]
  refine ⟨fun h => ?_, fun ⟨j, hj⟩ => ?_, rfl⟩
  · rw [eqResult, if_pos (Vector.ext fun i hi => h ⟨i, hi⟩)]
  · rw [eqResult, if_neg fun h => hj (by rw [h])]

/-- Settles O31: the whole slot is stored, tags included. -/
theorem copyCommand : Obligations.CopyCommand := by
  refine fun a b => ⟨fun w => decodeWord_ok_iff_encode w _, issuedInto_exec rfl, fun s hb hp => ?_⟩
  exact ⟨_, (exec_copy a b s).trans (runSingle_exec hb hp), slot_setSlot_complete b _ s,
    fun e he => slot_setSlot_other he _ s, rfl⟩

end Sys2Proof.Machine
end

section
/-! SUPPORT. The entropy sources (43_entropy_sources R165 to R171, 70_reset_and_hazards R221): a port answer without an
outstanding request of its own is ignored, and a command whose source never answers waits until reset: O41 and O46. -/

namespace Sys2Proof.Machine

/-! ## Answers and requests -/

theorem entRequest_eq_some_iff {s : State} {c : Dword} :
    s.entRequest = some c ↔ s.seq.phase = .entWait ∧ s.entAnswer = none ∧ c = s.seq.ctx := by
  simp [State.entRequest, and_assoc, eq_comm (a := c)]

theorem bulkRequest_eq_some_iff {s : State} {n : Nat} :
    s.bulkRequest = some n ↔ s.seq.phase = .bulkWait ∧ s.bulkAnswer = none ∧ n = 10 := by
  simp [State.bulkRequest, and_assoc, eq_comm (a := n)]

/-- An answer of ENT that no request of its own waits for is ignored (R166, R221). -/
theorem entAnswers_ignored {s : State} {n : Nat} (h : n ≠ s.resets ∨ s.entRequest = none) (a : EntAnswer) :
    s.entAnswers n a = s :=
  if_neg fun ⟨hn, hreq⟩ => h.elim (· hn) fun hnone => by simp [hnone] at hreq

/-- An answer of BULK that no request of its own waits for is ignored (R171, R221). -/
theorem bulkAnswers_ignored {s : State} {n : Nat} (h : n ≠ s.resets ∨ s.bulkRequest = none) (a : BulkAnswer) :
    s.bulkAnswers n a = s :=
  if_neg fun ⟨hn, hreq⟩ => h.elim (· hn) fun hnone => by simp [hnone] at hreq

theorem step_ent_ignored {s : State} {n : Nat} {a : EntAnswer} {rest : List Input} (hi : s.inputs = .ent n a :: rest)
    (h : n ≠ s.resets ∨ s.entRequest = none) : step s = .next { s with inputs := rest } :=
  (step_cons hi).trans (congrArg Host.Outcome.next (entAnswers_ignored (s := { s with inputs := rest }) h a))

theorem step_bulk_ignored {s : State} {n : Nat} {a : BulkAnswer} {rest : List Input} (hi : s.inputs = .bulk n a :: rest)
    (h : n ≠ s.resets ∨ s.bulkRequest = none) : step s = .next { s with inputs := rest } :=
  (step_cons hi).trans (congrArg Host.Outcome.next (bulkAnswers_ignored (s := { s with inputs := rest }) h a))

/-- Settles O41: an answer is ignored or held, and a request is outstanding as `State.entRequest` and `State.bulkRequest`
say. -/
theorem answersWithoutRequestAreIgnored : Obligations.AnswersWithoutRequestAreIgnored := by
  refine fun s rest => ⟨fun n a hi => ⟨step_ent_ignored hi, ?_⟩, fun n a hi => ⟨step_bulk_ignored hi, ?_⟩,
    fun _ => entRequest_eq_some_iff, fun _ => bulkRequest_eq_some_iff⟩
  · rintro rfl hreq
    obtain ⟨c, hc⟩ := Option.ne_none_iff_exists'.1 hreq
    obtain ⟨hp, ha, -⟩ := entRequest_eq_some_iff.1 hc
    exact step_ent hp ha hi
  · rintro rfl hreq
    obtain ⟨c, hc⟩ := Option.ne_none_iff_exists'.1 hreq
    obtain ⟨hp, ha, -⟩ := bulkRequest_eq_some_iff.1 hc
    exact step_bulk hp ha hi

/-! ## An input answers a next state when a turn of CORE does -/

theorem issueWord_next (w : Word) {s : State} (hb : s.status.busy = false) : ∃ t, s.issueWord w = .next t := by
  unfold State.issueWord
  cases decodeWord w with
  | ok i => exact exec_idle_next i hb
  | error e => exact ⟨_, rfl⟩

theorem writeReg_next (r : Reg) (v : Word) (s : State) : ∃ t, s.writeReg r v = .next t := by
  cases r with
  | cmd =>
    cases hb : s.status.busy with
    | true => exact ⟨_, writeReg_refused v hb (.inl rfl)⟩
    | false =>
      obtain ⟨t, ht⟩ := issueWord_next v (s := s.respond .written) hb
      exact ⟨t, by rw [State.writeReg, if_neg (by simp [hb]), ht]⟩
  | _ => exact ⟨_, rfl⟩

/-- A host access is always answered, with a bus error if need be (R195). -/
theorem access_next (a : Access) (s : State) : ∃ t, s.access a = .next t := by
  cases a with
  | read off n => cases hr : regAt off <;> simp [State.access, hr]
  | write off n v =>
    cases hr : regAt off with
    | none => simp [State.access, hr]
    | some r =>
      by_cases hn : n = 4
      · simpa [State.access, hr, hn] using writeReg_next r v s
      · simp [State.access, hr, hn]

theorem perform_next (e : Input) {s : State} (hcore : ∃ t, s.coreTurn = .next t) : ∃ t, s.perform e = .next t := by
  cases e with
  | host a => exact access_next a s
  | core => exact hcore
  | ent n a => exact ⟨_, rfl⟩
  | bulk n a => exact ⟨_, rfl⟩
  | reset => exact ⟨_, rfl⟩

/-! ## Waiting for an entropy byte -/

/-- A port command with the destination `d` waits for an entropy byte, no answer is held, and neither a reset nor an
answer to its request is to come (R169, R221). -/
structure State.Unanswered (d : SlotId) (s : State) : Prop where
  encodes : s.encodesInto d
  phase : s.seq.phase = .entWait
  held : s.entAnswer = none
  silent : ∀ e ∈ s.inputs, e ≠ .reset ∧ ∀ a, e ≠ .ent s.resets a

/-- All that the wait of `s` rests on is the same in `t`, the slots too, and no new input is to come. -/
structure State.KeepsWait (s t : State) : Prop where
  busy : t.status.busy = s.status.busy := by rfl
  seq : t.seq = s.seq := by rfl
  held : t.entAnswer = s.entAnswer := by rfl
  slots : t.slots = s.slots := by rfl
  resets : t.resets = s.resets := by rfl
  inputs : t.inputs ⊆ s.inputs := by exact List.Subset.refl _

theorem State.KeepsWait.trans {s t u : State} (h : s.KeepsWait t) (k : t.KeepsWait u) : s.KeepsWait u :=
  ⟨k.busy.trans h.busy, k.seq.trans h.seq, k.held.trans h.held, k.slots.trans h.slots, k.resets.trans h.resets,
    List.Subset.trans k.inputs h.inputs⟩

theorem State.Unanswered.of_keepsWait {s t : State} {d : SlotId} (h : s.Unanswered d) (k : s.KeepsWait t) :
    t.Unanswered d := by
  obtain ⟨hencodes, hphase, hheld, hsilent⟩ := h
  refine ⟨?_, k.seq ▸ hphase, k.held.trans hheld, fun e he => k.resets ▸ hsilent e (k.inputs he)⟩
  rwa [State.encodesInto, k.busy, k.seq]

/-- CORE waits (R169). -/
theorem State.Unanswered.coreTurn {s : State} {d : SlotId} (h : s.Unanswered d) : s.coreTurn = .next s := by
  obtain ⟨⟨hb, hr⟩, hp, ha, -⟩ := h
  rcases hr with hr | hr
  · rw [coreTurn_running hb hr, exec_port_busy d hb, portStep_wait d hp ha]
  · rw [coreTurn_running hb hr, exec_bulk_port d hb (.inr hp), portStep_wait d hp ha]

/-- In ENTWAIT with no answer held a turn of CORE changes nothing, whatever command runs (R169). -/
theorem CoreMove.eq_of_entWait {s t : State} {i : Instr} (m : CoreMove s i t) (hp : s.seq.phase = .entWait)
    (ha : s.entAnswer = none) : t = s := by
  cases m
  case entWait => rfl
  case ent ha' _ => cases ha.symm.trans ha'
  case bulkWait hp' _ | bulk hp' _ | tsWrite hp' _ => cases hp.symm.trans hp'
  case encConst hp' | encSkip hp' | render hp' | extract hp' | cmp hp' | eq hp' | copy hp' => cases hp.symm.trans hp'

/-- Each input but a reset and an answer of ENT of this epoch keeps the wait: the host's stores are refused, and no
command is issued, while BUSY = 1 (R194). -/
theorem State.Unanswered.input {s t : State} {d : SlotId} {e : Input} (h : s.Unanswered d) (m : InputMove s e t)
    (hreset : e ≠ .reset) (hent : ∀ a, e ≠ .ent s.resets a) : s.KeepsWait t := by
  have hb : s.status.busy = true := h.encodes.busy
  cases m with
  | busError _ _ => exact {}
  | read _ _ _ => exact {}
  | overrun _ _ _ _ => exact {}
  | readOnly _ _ _ => exact {}
  | status v => exact { busy := by simp }
  | tsLo _ hb' => cases hb.symm.trans hb'
  | tsHi _ hb' => cases hb.symm.trans hb'
  | ctxLo _ hb' => cases hb.symm.trans hb'
  | ctxHi _ hb' => cases hb.symm.trans hb'
  | slotWord _ _ _ hb' => cases hb.symm.trans hb'
  | illegal _ _ hb' _ => cases hb.symm.trans hb'
  | issue _ _ _ hb' _ _ => cases hb.symm.trans hb'
  | coreIdle hb' => cases hb.symm.trans hb'
  | core _ _ _ _ m => rw [m.eq_of_entWait h.phase h.held]; exact {}
  | ent n a =>
    have hlate : n ≠ s.resets := fun hn => hent a (by rw [hn])
    rw [entAnswers_ignored (.inl hlate)]
    exact {}
  | bulk n a => rw [bulkAnswers_frame]; exact {}
  | reset => exact absurd rfl hreset

theorem State.Unanswered.step {s : State} {d : SlotId} (h : s.Unanswered d) : ∃ t, step s = .next t ∧ s.KeepsWait t := by
  cases hi : s.inputs with
  | nil => exact ⟨s, (step_nil hi).trans h.coreTurn, {}⟩
  | cons e rest =>
    have htail : s.KeepsWait { s with inputs := rest } := { inputs := hi ▸ List.subset_cons_self e rest }
    have h' := h.of_keepsWait htail
    obtain ⟨hreset, hent⟩ := h.silent e (hi ▸ List.mem_cons_self)
    obtain ⟨t, ht⟩ := perform_next e ⟨_, h'.coreTurn⟩
    exact ⟨t, (step_cons hi).trans ht, htail.trans (h'.input (perform_move ht) hreset hent)⟩

/-- The wait lasts any number of steps, by induction on the number. -/
theorem State.Unanswered.run {d : SlotId} (n : Nat) :
    ∀ {s : State}, s.Unanswered d → ∃ t, Host.Core.run core n s = .next t ∧ s.KeepsWait t := by
  induction n with
  | zero => exact fun {s} _ => ⟨s, rfl, {}⟩
  | succ n ih =>
    intro s h
    obtain ⟨t, hstep, k⟩ := h.step
    obtain ⟨u, hrun, k'⟩ := ih (h.of_keepsWait k)
    exact ⟨u, (run_succ hstep).trans hrun, k.trans k'⟩

/-- Settles O46: a run keeps all that the wait rests on. -/
theorem unansweredCommandHangs : Obligations.UnansweredCommandHangs := by
  intro n s d hb hp ha hr hsilent
  obtain ⟨t, hrun, k⟩ := State.Unanswered.run n ⟨⟨hb, hr⟩, hp, ha, hsilent⟩
  exact ⟨t, hrun, k.busy.trans hb, k.seq, k.held.trans ha, k.slots⟩

end Sys2Proof.Machine
end

section
/-! SUPPORT. Exceptions (60_exceptions.md): the two command errors and what they leave (R191, R192), the order in which the
causes of one write access are checked (R193), and that the block has no stop of its own (R190, R198): O16, O20 and O45. -/

namespace Sys2Proof.Machine

/-! ## The command errors -/

/-- A write of an illegal word to CMD of an idle block is ILLEGAL_CMD (R87, R192). -/
theorem writeReg_illegal {s : State} {w : Word} {e : DecodeError} (hb : s.status.busy = false)
    (hd : decodeWord w = .error e) : s.writeReg .cmd w = .next { s with
      response := .written,
      status := { busy := false, err := .illegalCmd, degraded := false, fallback := false, ovr := s.status.ovr } } := by
  simp [State.writeReg, State.issueWord, hb, hd, State.cmdError, Status.failed, State.respond]

/-- The port commands are those with an argument check, and it fails without the byte port (R191). -/
theorem refusedWithoutEnt {i : Instr} (hs : Instr.singleStep i = false) : RefusedWithoutEnt i := by
  rcases issue_cases i with h | ⟨d, rfl⟩ | ⟨d, rfl⟩
  · cases hs.symm.trans h
  · exact refusedWithoutEnt_of_acceptIfEnt (exec_encPort_idle d)
  · exact refusedWithoutEnt_of_acceptIfEnt (exec_encBulk_idle d)

theorem step_illegal {s : State} {w : Word} {e : DecodeError} {rest : List Input} (hi : s.inputs = wr .cmd w :: rest)
    (hb : s.status.busy = false) (hd : decodeWord w = .error e) : step s = .next { s with
      inputs := rest, response := .written,
      status := { busy := false, err := .illegalCmd, degraded := false, fallback := false, ovr := s.status.ovr } } := by
  rw [step_wr hi, writeReg_illegal (s := { s with inputs := rest }) hb hd]

theorem step_invalidArg {s : State} {w : Word} {i : Instr} {rest : List Input} (hi : s.inputs = wr .cmd w :: rest)
    (hb : s.status.busy = false) (hd : decodeWord w = .ok i) (hs : Instr.singleStep i = false)
    (he : s.cfg.entPresent = false) : step s = .next { s with
      inputs := rest, response := .written,
      status := { busy := false, err := .invalidArg, degraded := false, fallback := false, ovr := s.status.ovr } } := by
  obtain ⟨hissue, -⟩ := stepRunsTheDecodedCommand
  exact (hissue s w i rest hi hb hd).trans (refusedWithoutEnt hs _ hb he)

/-- Settles O20: a rule of a step for each of the two causes. -/
theorem commandErrorsOnlySetErr : Obligations.CommandErrorsOnlySetErr := by
  refine fun s w rest hi hb => ⟨fun ⟨e, hd⟩ => step_illegal hi hb hd, fun ⟨d, hd⟩ he => ?_⟩
  rcases hd with hd | hd
  · exact step_invalidArg hi hb hd rfl he
  · exact step_invalidArg hi hb hd rfl he

/-! ## The order of the causes -/

/-- Stored or refused, a write that only stores keeps what its store keeps of ERR and the sequencer (R60). -/
theorem storeIfIdle_err_seq {f : State → State} {s : State} (herr : (f s).status.err = s.status.err)
    (hseq : (f s).seq = s.seq) :
    (s.storeIfIdle f).status.err = s.status.err ∧ (s.storeIfIdle f).seq = s.seq := by
  rcases storeIfIdle_cases f s with ⟨-, h⟩ | ⟨-, h⟩ <;> rw [h]
  · exact ⟨rfl, rfl⟩
  · exact ⟨herr, hseq⟩

/-- Only a write of CMD can change ERR or the sequencer (R31, R90). -/
theorem writeReg_err_seq {r : Reg} (hr : r ≠ .cmd) (v : Word) (s : State) :
    ∃ t, s.writeReg r v = .next t ∧ t.status.err = s.status.err ∧ t.seq = s.seq := by
  cases r with
  | cmd => exact absurd rfl hr
  | status => exact ⟨_, rfl, Status.hostWrite_err v s.status, rfl⟩
  | cfg | resultLo | resultHi | strWord j => exact ⟨_, rfl, rfl, rfl⟩
  | tsLo | tsHi | ctxLo | ctxHi | slotWord d j => exact ⟨_, rfl, storeIfIdle_err_seq rfl rfl⟩

/-- An access that the window admits is a write of the register at its offset (R52, R57). -/
theorem write_eq_wr {off : BitVec 8} {bytes : Nat} {r : Reg} (v : Word) (hn : bytes = 4) (hr : regAt off = some r) :
    Input.host (.write off bytes v) = wr r v := by
  rw [wr, hn, regAt_some hr]

/-- Settles O16, by one rule of a step for each cause, in the order of R193. -/
theorem priorityOfCauses : Obligations.PriorityOfCauses := by
  intro s off bytes v rest hi
  by_cases hbad : bytes ≠ 4 ∨ regAt off = none
  · rw [if_pos hbad]
    exact step_notAdmitted hbad (.inr hi)
  rw [if_neg hbad]
  obtain ⟨hn, hmapped⟩ := not_or.1 hbad
  obtain ⟨r, hr⟩ := Option.ne_none_iff_exists'.1 hmapped
  rw [write_eq_wr v (not_not.1 hn) hr] at hi
  rw [hr]
  split_ifs with hcmd hb
  · obtain rfl : r = .cmd := Option.some.inj hcmd
    obtain ⟨hrefused, -⟩ := accessesWhileBusy s rest hb
    exact hrefused .cmd v hi (.inl rfl)
  · obtain rfl : r = .cmd := Option.some.inj hcmd
    rw [Bool.not_eq_true] at hb
    cases hd : decodeWord v with
    | error e => exact step_illegal hi hb hd
    | ok i =>
      dsimp only
      split_ifs with harg
      · obtain ⟨hs, he⟩ := harg
        exact step_invalidArg hi hb hd hs he
      · obtain ⟨t, hstep, m⟩ := step_cmd hi hb hd
        obtain ⟨hbusy, herr⟩ := m.accepted (by simpa [or_iff_not_imp_left] using harg)
        exact ⟨t, hstep, herr, hbusy⟩
  · rw [step_wr hi]
    exact writeReg_err_seq (fun h => hcmd (congrArg some h)) v { s with inputs := rest }

/-! ## No step stops -/

/-- A command of one CORE step takes it in EXEC (R90). -/
theorem exec_single_next {i : Instr} {s : State} (hs : Instr.singleStep i = true) (hb : s.status.busy = true)
    (hp : s.seq.phase = .exec) : ∃ t, exec i s = .next t := by
  obtain ⟨f, hf⟩ := exec_single i hs
  exact ⟨_, (hf s).trans (runSingle_exec hb hp)⟩

/-- A command on the byte port takes its step, or waits, in TSWRITE and ENTWAIT (R103, R169). -/
theorem coreTurn_port_next {s : State} (hb : s.status.busy = true) (hr : s.runsOnPort)
    (hp : s.seq.phase = .tsWrite ∨ s.seq.phase = .entWait) : ∃ t, s.coreTurn = .next t := by
  rcases hr with ⟨d, hr⟩ | ⟨⟨d, hr⟩, -⟩
  · rw [coreTurn_running hb hr, exec_port_busy d hb]
    exact portStep_next d hp
  · rw [coreTurn_running hb hr, exec_bulk_port d hb hp]
    exact portStep_next d hp

/-- ENC.BULK takes its answer, or waits for it, in BULKWAIT (R108, R171). -/
theorem exec_bulkWait_next (d : SlotId) {s : State} (hb : s.status.busy = true) (hp : s.seq.phase = .bulkWait) :
    ∃ t, exec (.encBulk d) s = .next t := by
  rw [exec_bulk_wait d hb hp]
  cases s.bulkAnswer with
  | none => exact ⟨_, rfl⟩
  | some a => exact ⟨_, rfl⟩

/-- The invariant names the command of each phase, so that CORE always has a step to take (R37). -/
theorem State.Inv.coreTurn_next {s : State} (h : s.Inv) : ∃ t, s.coreTurn = .next t := by
  cases hb : s.status.busy with
  | false => exact ⟨s, if_neg (by simp [hb])⟩
  | true =>
    cases hp : s.seq.phase with
    | idle => cases hb.symm.trans (h.idle_iff.1 hp)
    | exec =>
      obtain ⟨⟨i, hr, hs⟩, -⟩ := h.exec_runs hp
      rw [coreTurn_running hb hr]
      exact exec_single_next hs hb hp
    | tsWrite =>
      obtain ⟨hr, -⟩ := h.port_runs (.inl hp)
      exact coreTurn_port_next hb hr (.inl hp)
    | entWait =>
      obtain ⟨hr, -⟩ := h.port_runs (.inr hp)
      exact coreTurn_port_next hb hr (.inr hp)
    | bulkWait =>
      obtain ⟨⟨d, hr⟩, -⟩ := h.bulk_runs hp
      rw [coreTurn_running hb hr]
      exact exec_bulkWait_next d hb hp

/-- Settles O45: a turn of CORE goes on by the invariant, and every other input goes on in any state. -/
theorem noStepStops : Obligations.NoStepStops := by
  intro s h
  cases hi : s.inputs with
  | nil => rw [step_nil hi]; exact h.coreTurn_next
  | cons e rest =>
    rw [step_cons hi]
    have htail : State.Inv { s with inputs := rest } := h.congr
    exact perform_next e htail.coreTurn_next

end Sys2Proof.Machine
end

section
/-! SUPPORT. Reset (70_reset_and_hazards R220 to R222): what a reset leaves, that CORE rests until a command is issued, and
that the epoch a reset begins is kept until the next one, so that a late answer is ignored: O42, O43 and O60. -/

namespace Sys2Proof.Machine

/-! ## The state a reset leaves -/

theorem afterReset_status_word (cfg : Cfg) (base n : Nat) (inputs : List Input) :
    (State.afterReset cfg base n inputs).status.word = 0 := by
  have hword : Status.word { busy := false, err := .ok, degraded := false, fallback := false, ovr := false } = 0 := by
    decide
  exact hword

theorem afterReset_slot_unwritten (cfg : Cfg) (base n : Nat) (inputs : List Input) (d : SlotId) (k : Fin 16) :
    (((State.afterReset cfg base n inputs).slot d)[k]).isWritten = false := by
  simp [State.slot, State.afterReset, Data.isWritten]

theorem afterReset_str_unwritten (cfg : Cfg) (base n : Nat) (inputs : List Input) (i : Fin 27) :
    ((State.afterReset cfg base n inputs).str[i]).isWritten = false := by
  simp [State.afterReset, Data.isWritten]

/-- Settles O42: the step is `State.assertReset`, and the data of `State.afterReset` are unwritten. -/
theorem resetLeavesDataUnwritten : Obligations.ResetLeavesDataUnwritten := by
  intro s rest hi
  have hstep : step s = .next ({ s with inputs := rest } : State).assertReset := step_cons hi
  exact ⟨_, hstep, afterReset_status_word _ _ _ _, rfl, rfl, afterReset_slot_unwritten _ _ _ _, ⟨rfl, rfl⟩, ⟨rfl, rfl⟩,
    ⟨rfl, rfl⟩, afterReset_str_unwritten _ _ _ _, rfl, rfl, rfl, rfl⟩

/-- CORE has no step to take while no command runs (R90, R222). -/
theorem coreTurn_idle {s : State} (hb : s.status.busy = false) : s.coreTurn = .next s := if_neg (by simp [hb])

/-- Settles O43: no command runs right after reset, so the invariant asks little and CORE rests. -/
theorem resetStateIsIdle : Obligations.ResetStateIsIdle :=
  ⟨afterReset_status_word _ _ _ _, rfl, .of_idle rfl rfl rfl rfl rfl rfl, (step_nil rfl).trans (coreTurn_idle rfl)⟩

/-! ## Epochs -/

/-- A reset begins a new epoch, and every other input stays in the present one (R221). -/
theorem InputMove.resets {s t : State} {e : Input} (m : InputMove s e t) :
    t.resets = if e = .reset then s.resets + 1 else s.resets := by
  cases m with
  | reset => rfl
  | core _ _ _ _ m => exact m.resets
  | issue _ _ _ _ _ m => rw [m.frame.1, if_neg wr_reset, State.respond_resets]
  | ent n a => rw [entAnswers_frame]; rfl
  | bulk n a => rw [bulkAnswers_frame]; rfl
  | _ => rfl

theorem step_resets {s t : State} (h : step s = .next t) :
    (s.resetComes → t.resets = s.resets + 1) ∧ (¬ s.resetComes → t.resets = s.resets) := by
  obtain ⟨e, rest, m, -, hr, -⟩ := step_inputMove h
  have hcount := m.resets
  rw [hr]
  exact ⟨fun he => hcount.trans (if_pos he), fun he => hcount.trans (if_neg he)⟩

theorem step_resets_le {s t : State} (h : step s = .next t) : s.resets ≤ t.resets := by
  obtain ⟨hreset, hother⟩ := step_resets h
  by_cases hr : s.resetComes
  · exact hreset hr ▸ Nat.le_succ _
  · exact (hother hr).ge

theorem run_succ_inv {n : Nat} {s t : State} (h : Host.Core.run core (n + 1) s = .next t) :
    ∃ u, step s = .next u ∧ Host.Core.run core n u = .next t := by
  cases hstep : step s with
  | next u => exact ⟨u, rfl, (run_succ hstep).symm.trans h⟩
  | fault r =>
    have hcore : core.step s = .fault r := hstep
    simp [Host.Core.run, hcore] at h
  | refused r =>
    have hcore : core.step s = .refused r := hstep
    simp [Host.Core.run, hcore] at h

/-- However many steps are taken, no epoch comes again. -/
theorem run_resets_le (n : Nat) : ∀ {s t : State}, Host.Core.run core n s = .next t → s.resets ≤ t.resets := by
  induction n with
  | zero => intro s t h; cases h; exact le_rfl
  | succ n ih =>
    intro s t h
    obtain ⟨u, hstep, hrun⟩ := run_succ_inv h
    exact (step_resets_le hstep).trans (ih hrun)

/-- Settles O60: the reset ends the epoch of the late answer, and no step returns to it. -/
theorem lateAnswersAreIgnored : Obligations.LateAnswersAreIgnored := by
  refine ⟨fun s t h => step_resets h, fun n s u t epoch rest hr hstep hrun hle => ?_⟩
  have hlate : epoch < t.resets :=
    calc epoch ≤ s.resets := hle
      _ < u.resets := (step_resets hstep).1 hr ▸ Nat.lt_succ_self _
      _ ≤ t.resets := run_resets_le n hrun
  exact ⟨fun a hi => step_ent_ignored hi (.inl hlate.ne), fun a hi => step_bulk_ignored hi (.inl hlate.ne)⟩

end Sys2Proof.Machine
end
